-- ==== Sys2Proof/Word.lean ====
section
/-!
DEFINITION. The widths of the machine's words and registers (00_scope R7, 10_state R21 to R26). Every one is what the
spec calls "a fixed-width unsigned integer" with bit 0 the least significant (R8), so each is a bit vector.
-/

namespace Sys2Proof

/-- A core memory word, and the layout of MQ: sign bit 35, magnitude bits 34:0 (00_scope R10). -/
abbrev Word36 := BitVec 36

/-- The accumulator: sign bit 37, guard bit P 36, guard bit Q 35, magnitude 34:0 (10_state R21). -/
abbrev AcWord := BitVec 38

/-- A magnitude field, 0 .. 2^35-1 (10_state R29). -/
abbrev Magnitude := BitVec 35

/-- The address operand `y`, and the width of the index registers and of ILC (00_scope R7, decision D9 for ILC). -/
abbrev Addr := BitVec 15

/-- The instruction register's width (decision D9). -/
abbrev IrWord := BitVec 18

/-- The command word of the `cmd` port, `{tag[4:0], y[14:0]}` (30_encoding R92). -/
abbrev Command := BitVec 20

/-- The 5-bit opcode tag of a command word (30_encoding R92). -/
abbrev Tag := BitVec 5

end Sys2Proof
end

