-- ==== Sys2Proof/Config.lean ====
section
/-!
DEFINITION. What an implementation fixes (00_scope R7), and the one free value the spec leaves open (10_state R40).
-/

namespace Sys2Proof.Config

/-- `CORE_SIZE` where the caller names none (00_scope R7). -/
def defaultCoreSize : Nat := 8192

/-- The largest legal `CORE_SIZE`, from the 15 bits of an address (00_scope R7). -/
def maxCoreSize : Nat := 32768

/-- The legal range of `CORE_SIZE`, "1..32768" (00_scope R7). -/
abbrev legalCoreSize (n : Nat) : Prop := 1 ≤ n ∧ n ≤ maxCoreSize

/-- FREE VALUE (log entry 2): what core word `a` holds before anything has written it. 10_state R40: "its value is
unspecified"; 93_implementation_defined U9: "`any value` per word, fixed at launch". It has no body, so no claim can
rest on what it is. -/
opaque powerOnWord : Nat → Word36

end Sys2Proof.Config
end

