-- ==== Sys2Proof/Syntax.lean ====
section
/-!
DEFINITION. The commands of the machine as syntax: one constructor for each row of spec/opcode_table.json, in its order
(30_encoding R96, R97), their formats (R93), their listing form (R102) and the row type of the opcode table.
-/

namespace Sys2Proof

/-- The 24 opcodes and the four bulk operations. Only a format M command has an operand, the word address `y`
(30_encoding R94); the `y` field of formats N and B is ignored (R95) and is no part of the instruction. -/
inductive Instr where
  | cla (y : Addr)
  | cls (y : Addr)
  | ldq (y : Addr)
  | sto (y : Addr)
  | stq (y : Addr)
  | slq (y : Addr)
  | stp (y : Addr)
  | std (y : Addr)
  | sta (y : Addr)
  | clm
  | chs
  | ssp
  | ssm
  | cal (y : Addr)
  | acl (y : Addr)
  | add (y : Addr)
  | adm (y : Addr)
  | sub (y : Addr)
  | sbm (y : Addr)
  | rnd
  | mpy (y : Addr)
  | mpr (y : Addr)
  | dvh (y : Addr)
  | dvp (y : Addr)
  | clearCore
  | clearArith
  | clearProg
  | clearAll
deriving DecidableEq, Repr

/-- The three formats of 30_encoding R93. -/
inductive Format where
  /-- memory reference: `y` is used -/
  | M
  /-- no address: `y` is ignored -/
  | N
  /-- bulk operation: `y` is ignored -/
  | B
deriving DecidableEq, Repr

/-- Why a command word is no instruction: its tag is 28, 29, 30 or 31 (30_encoding R98). -/
inductive DecodeError where
  | unsupportedOpcode (tag : Tag)
deriving DecidableEq, Repr

/-- One row of the opcode map: "a word `c` selects the row when `c and mask = match`" (30_encoding R96). -/
structure OpcodeRow where
  mnemonic : String
  format : Format
  pattern : Command
  mask : Command
deriving DecidableEq, Repr

/-- The word address a command carries, where it has one (30_encoding R94, R95). -/
def Instr.address? : Instr → Option Addr
  | .cla y => some y
  | .cls y => some y
  | .ldq y => some y
  | .sto y => some y
  | .stq y => some y
  | .slq y => some y
  | .stp y => some y
  | .std y => some y
  | .sta y => some y
  | .clm => none
  | .chs => none
  | .ssp => none
  | .ssm => none
  | .cal y => some y
  | .acl y => some y
  | .add y => some y
  | .adm y => some y
  | .sub y => some y
  | .sbm y => some y
  | .rnd => none
  | .mpy y => some y
  | .mpr y => some y
  | .dvh y => some y
  | .dvp y => some y
  | .clearCore => none
  | .clearArith => none
  | .clearProg => none
  | .clearAll => none

/-- The format of each command (30_encoding R93). -/
def Instr.format : Instr → Format
  | .cla _ => .M
  | .cls _ => .M
  | .ldq _ => .M
  | .sto _ => .M
  | .stq _ => .M
  | .slq _ => .M
  | .stp _ => .M
  | .std _ => .M
  | .sta _ => .M
  | .clm => .N
  | .chs => .N
  | .ssp => .N
  | .ssm => .N
  | .cal _ => .M
  | .acl _ => .M
  | .add _ => .M
  | .adm _ => .M
  | .sub _ => .M
  | .sbm _ => .M
  | .rnd => .N
  | .mpy _ => .M
  | .mpr _ => .M
  | .dvh _ => .M
  | .dvp _ => .M
  | .clearCore => .B
  | .clearArith => .B
  | .clearProg => .B
  | .clearAll => .B

/-- The upper-case mnemonic (30_encoding R96, R97, R102). -/
def Instr.mnemonic : Instr → String
  | .cla _ => "CLA"
  | .cls _ => "CLS"
  | .ldq _ => "LDQ"
  | .sto _ => "STO"
  | .stq _ => "STQ"
  | .slq _ => "SLQ"
  | .stp _ => "STP"
  | .std _ => "STD"
  | .sta _ => "STA"
  | .clm => "CLM"
  | .chs => "CHS"
  | .ssp => "SSP"
  | .ssm => "SSM"
  | .cal _ => "CAL"
  | .acl _ => "ACL"
  | .add _ => "ADD"
  | .adm _ => "ADM"
  | .sub _ => "SUB"
  | .sbm _ => "SBM"
  | .rnd => "RND"
  | .mpy _ => "MPY"
  | .mpr _ => "MPR"
  | .dvh _ => "DVH"
  | .dvp _ => "DVP"
  | .clearCore => "CLEAR_CORE"
  | .clearArith => "CLEAR_ARITH"
  | .clearProg => "CLEAR_PROG"
  | .clearAll => "CLEAR_ALL"

/-- A command as the spec's listings write it, `MNEMONIC` or `MNEMONIC y` with `y` decimal (30_encoding R102). -/
def Instr.listing (i : Instr) : String :=
  match i.address? with
  | some y => i.mnemonic ++ " " ++ toString y.toNat
  | none => i.mnemonic

end Sys2Proof
end

