-- ==== Sys2Proof/WellFormed.lean ====
section
/-!
DEFINITION. Which commands are well formed for a machine of a given `CORE_SIZE`. The width of `y` is carried by its
type; what is left to check is the caller's one duty towards an opcode call, "keep `y < CORE_SIZE` for format M"
(46_bulk_and_host R230, 20_memory R60).
-/

namespace Sys2Proof

/-- A format M command is well formed when its address is valid, `y < CORE_SIZE`; a command of format N or B always is
(30_encoding R95, R101 step 3). -/
def Instr.wellFormed (coreSize : Nat) (i : Instr) : Bool :=
  match i.address? with
  | some y => decide (y.toNat < coreSize)
  | none => true

end Sys2Proof
end

