-- ==== Sys2Proof/Decode.lean ====
section
/-!
DEFINITION. The opcode map, the decoder from 20-bit command words and the encoder (30_encoding R92 to R100). The tag
numbers are the spec's own assignment (92_eei_decisions D11).
-/

namespace Sys2Proof

/-- `tag = cmd[19:15]` (30_encoding R92). -/
def tagField (w : Command) : Tag := w.extractLsb 19 15

/-- `y = cmd[14:0]`, an unsigned 15-bit integer with no extension, scaling or addition (30_encoding R92, R94). -/
def addrField (w : Command) : Addr := w.extractLsb 14 0

/-- The opcode map of 30_encoding R96 and R97: mnemonic, format, match and mask of each row. -/
def opcodeTable : List OpcodeRow :=
  [⟨"CLA", .M, 0x00000#20, 0xF8000#20⟩,
   ⟨"CLS", .M, 0x08000#20, 0xF8000#20⟩,
   ⟨"LDQ", .M, 0x10000#20, 0xF8000#20⟩,
   ⟨"STO", .M, 0x18000#20, 0xF8000#20⟩,
   ⟨"STQ", .M, 0x20000#20, 0xF8000#20⟩,
   ⟨"SLQ", .M, 0x28000#20, 0xF8000#20⟩,
   ⟨"STP", .M, 0x30000#20, 0xF8000#20⟩,
   ⟨"STD", .M, 0x38000#20, 0xF8000#20⟩,
   ⟨"STA", .M, 0x40000#20, 0xF8000#20⟩,
   ⟨"CLM", .N, 0x48000#20, 0xF8000#20⟩,
   ⟨"CHS", .N, 0x50000#20, 0xF8000#20⟩,
   ⟨"SSP", .N, 0x58000#20, 0xF8000#20⟩,
   ⟨"SSM", .N, 0x60000#20, 0xF8000#20⟩,
   ⟨"CAL", .M, 0x68000#20, 0xF8000#20⟩,
   ⟨"ACL", .M, 0x70000#20, 0xF8000#20⟩,
   ⟨"ADD", .M, 0x78000#20, 0xF8000#20⟩,
   ⟨"ADM", .M, 0x80000#20, 0xF8000#20⟩,
   ⟨"SUB", .M, 0x88000#20, 0xF8000#20⟩,
   ⟨"SBM", .M, 0x90000#20, 0xF8000#20⟩,
   ⟨"RND", .N, 0x98000#20, 0xF8000#20⟩,
   ⟨"MPY", .M, 0xA0000#20, 0xF8000#20⟩,
   ⟨"MPR", .M, 0xA8000#20, 0xF8000#20⟩,
   ⟨"DVH", .M, 0xB0000#20, 0xF8000#20⟩,
   ⟨"DVP", .M, 0xB8000#20, 0xF8000#20⟩,
   ⟨"CLEAR_CORE", .B, 0xC0000#20, 0xF8000#20⟩,
   ⟨"CLEAR_ARITH", .B, 0xC8000#20, 0xF8000#20⟩,
   ⟨"CLEAR_PROG", .B, 0xD0000#20, 0xF8000#20⟩,
   ⟨"CLEAR_ALL", .B, 0xD8000#20, 0xF8000#20⟩]

/-- The command a tag selects, with the address operand it would carry; tags 28 to 31 select nothing
(30_encoding R96, R97, R98). -/
def decodeTag (tag : Nat) (y : Addr) : Option Instr :=
  match tag with
  | 0 => some (.cla y)
  | 1 => some (.cls y)
  | 2 => some (.ldq y)
  | 3 => some (.sto y)
  | 4 => some (.stq y)
  | 5 => some (.slq y)
  | 6 => some (.stp y)
  | 7 => some (.std y)
  | 8 => some (.sta y)
  | 9 => some .clm
  | 10 => some .chs
  | 11 => some .ssp
  | 12 => some .ssm
  | 13 => some (.cal y)
  | 14 => some (.acl y)
  | 15 => some (.add y)
  | 16 => some (.adm y)
  | 17 => some (.sub y)
  | 18 => some (.sbm y)
  | 19 => some .rnd
  | 20 => some (.mpy y)
  | 21 => some (.mpr y)
  | 22 => some (.dvh y)
  | 23 => some (.dvp y)
  | 24 => some .clearCore
  | 25 => some .clearArith
  | 26 => some .clearProg
  | 27 => some .clearAll
  | _ => none

/-- Decoding, total on the 2^20 command words: an instruction, or `unsupportedOpcode` with the offending tag
(30_encoding R98, R99). -/
def decode (w : Command) : Except DecodeError Instr :=
  match decodeTag (tagField w).toNat (addrField w) with
  | some i => .ok i
  | none => .error (.unsupportedOpcode (tagField w))

/-- The tag number of each command (30_encoding R96, R97). -/
def Instr.tag : Instr → Tag
  | .cla _ => 0
  | .cls _ => 1
  | .ldq _ => 2
  | .sto _ => 3
  | .stq _ => 4
  | .slq _ => 5
  | .stp _ => 6
  | .std _ => 7
  | .sta _ => 8
  | .clm => 9
  | .chs => 10
  | .ssp => 11
  | .ssm => 12
  | .cal _ => 13
  | .acl _ => 14
  | .add _ => 15
  | .adm _ => 16
  | .sub _ => 17
  | .sbm _ => 18
  | .rnd => 19
  | .mpy _ => 20
  | .mpr _ => 21
  | .dvh _ => 22
  | .dvp _ => 23
  | .clearCore => 24
  | .clearArith => 25
  | .clearProg => 26
  | .clearAll => 27

/-- The command word `{tag, y}` of a command (30_encoding R92). Where `y` is ignored (R95) the encoder writes zeros
(DESIGN CHOICE, safe: log entry 11). -/
def encode (i : Instr) : Command :=
  i.tag ++ i.address?.getD 0#15

/-- What the decoder reads from the low `nbits` bits of `w`, presented on the 20-bit `cmd` port. Bits above bit 19 do
not exist on that port, so a number that has one is no command (DESIGN CHOICE, safe: log entry 12). -/
def decodeTableWord (nbits w : Nat) : Option Instr :=
  let v := w % 2 ^ nbits
  if v < 2 ^ 20 then
    match decode (BitVec.ofNat 20 v) with
    | .ok i => some i
    | .error _ => none
  else
    none

end Sys2Proof
end

