-- ==== Sys2Proof/Machine/State.lean ====
section
/-!
DEFINITION. The machine state as plain data (00_scope R16, 10_state R20 to R41), the caller's actions, the reasons a
step can stop, and the state after reset.
-/

namespace Sys2Proof.Machine

/-- The eight registers by name (10_state R20). -/
inductive Register where
  | ac | mq | sr | xr1 | xr2 | xr3 | ilc | ir
deriving DecidableEq, Repr

/-- The width of each register in bits (00_scope R7). -/
def Register.width : Register → Nat
  | .ac => 38
  | .mq => 36
  | .sr => 36
  | .xr1 => 15
  | .xr2 => 15
  | .xr3 => 15
  | .ilc => 15
  | .ir => 18

/-- The thirteen flags by name (10_state R30). -/
inductive Flag where
  | acOverflow | mqOverflow | divideCheck | rwCheck | tapeCheck | rwSelect
  | sense1 | sense2 | sense3 | sense4 | trapMode | halt | autoManual
deriving DecidableEq, Repr

/-- The flag bank: 13 "independent booleans" (10_state R30). Only `divideCheck` and `halt` have a producer among the
commands (R31); the others are written by the caller and by reset alone (R33). -/
structure FlagBank where
  acOverflow : Bool
  mqOverflow : Bool
  divideCheck : Bool
  rwCheck : Bool
  tapeCheck : Bool
  rwSelect : Bool
  sense1 : Bool
  sense2 : Bool
  sense3 : Bool
  sense4 : Bool
  trapMode : Bool
  halt : Bool
  autoManual : Bool
deriving DecidableEq, Repr

/-- The flag bank after construction: "all-zero/false state" (10_state R39). -/
def FlagBank.cleared : FlagBank :=
  ⟨false, false, false, false, false, false, false, false, false, false, false, false, false⟩

/-- Core memory: the words that have been given a value, as (address, word) pairs with strictly rising addresses. The
smallest addressable unit is the 36-bit word (20_memory R61), so a cell holds a word (log entry 1). A word that is not
listed has been given no value since the machine was constructed (10_state R40; log entries 2 and 3). -/
abbrev Memory := List (Nat × Word36)

/-- The caller's accesses through the host port, between commands only (46_bulk_and_host R226 to R229), and `rst`
(70_reset_and_hazards R280). -/
inductive HostAccess where
  | readRegister (r : Register)
  | readFlag (f : Flag)
  | readCore (a : Addr)
  | writeRegister (r : Register) (v : BitVec r.width)
  | writeFlag (f : Flag) (b : Bool)
  | writeCore (a : Addr) (w : Word36)
  | reset
deriving DecidableEq, Repr

/-- One action of the caller: a command word presented on the `cmd` port (30_encoding R91), or a host access. -/
inductive Input where
  | command (w : Command)
  | host (h : HostAccess)
deriving DecidableEq, Repr

/-- The machine state: the tuple of 00_scope R16, the two construction parameters (R7, 10_state R37), and, as the
model's own field, the caller's actions that are still to come (log entry 6). -/
structure State where
  /-- accumulator (10_state R21) -/
  ac : AcWord
  /-- multiplier-quotient register (10_state R22) -/
  mq : Word36
  /-- storage register (10_state R23) -/
  sr : Word36
  /-- index registers (10_state R24) -/
  xr1 : Addr
  xr2 : Addr
  xr3 : Addr
  /-- instruction-location register, storage only (10_state R25) -/
  ilc : Addr
  /-- instruction register, storage only (10_state R26) -/
  ir : IrWord
  /-- the 13 flags (10_state R30) -/
  flags : FlagBank
  /-- core memory (10_state R36) -/
  core : Memory
  /-- `CORE_SIZE`, fixed at construction (00_scope R7) -/
  coreSize : Nat
  /-- the verbosity bit, fixed at construction, read by nothing (10_state R37) -/
  verbose : Bool
  /-- THE MODEL'S OWN: the caller's actions not yet taken, oldest first (log entry 6) -/
  inputs : List Input
deriving DecidableEq, Repr

/-- Who asked for a core word: the command being executed, or the caller through the host port (60_exceptions R245,
column "raised by"). A fault of the address check carries it, so that it "names the command" (R248). -/
inductive Requester where
  | command (i : Instr)
  | host (h : HostAccess)
deriving DecidableEq, Repr

/-- Why the machine stops: the two contract violations of 60_exceptions R245, each naming the command that raised
it (R248). Neither has a successor state (R248), so stopping is safe: nothing can be proved of what follows one. -/
inductive Fault where
  /-- `ContractViolation(AddressOutOfRange)`, status 1: raised by every format M command and by the caller's own core
  access when the address `y` is `CORE_SIZE` or more (60_exceptions R247); `who` names that command or access (R248).
  Safe. -/
  | addressOutOfRange (who : Requester) (y : Addr)
  /-- `ContractViolation(UnsupportedOpcode)`, status 2: raised by the engine for the command word `w`, whose tag is 28
  to 31 (60_exceptions R246). Safe. -/
  | unsupportedOpcode (w : Command)
deriving DecidableEq, Repr

/-- Why the model gives an instruction no meaning. No arm of `exec` uses it: every command has its meaning. -/
inductive Refusal where
  /-- Raised by an arm of `exec` whose instruction has no meaning yet. Safe: the machine stops. -/
  | notModelled (mnemonic : String)
deriving DecidableEq, Repr

/-- A newly constructed machine (10_state R39, 70_reset_and_hazards R283 step 1): registers zero, flags false, no core
word given a value (R40), and no action of the caller pending. -/
def State.construct (coreSize : Nat) (verbose : Bool) : State where
  ac := 0#38
  mq := 0#36
  sr := 0#36
  xr1 := 0#15
  xr2 := 0#15
  xr3 := 0#15
  ilc := 0#15
  ir := 0#18
  flags := FlagBank.cleared
  core := []
  coreSize := coreSize
  verbose := verbose
  inputs := []

/-- The machine right after reset, with the default `CORE_SIZE` of 8192 (10_state R39, 00_scope R7; `verbose` false is
a DESIGN CHOICE, log entry 5). -/
def State.reset : State := State.construct Config.defaultCoreSize false

end Sys2Proof.Machine
end

