-- ==== Sys2Proof/Machine/Flags.lean ====
section
/-!
DEFINITION. Reading and writing the flag bank (10_state R30), and the only flag computation of the instruction set, the
report of a divide overflow (10_state R31, 60_exceptions R241).
-/

namespace Sys2Proof.Machine

/-- The flag of a given name. -/
def FlagBank.read (b : FlagBank) : Flag → Bool
  | .acOverflow => b.acOverflow
  | .mqOverflow => b.mqOverflow
  | .divideCheck => b.divideCheck
  | .rwCheck => b.rwCheck
  | .tapeCheck => b.tapeCheck
  | .rwSelect => b.rwSelect
  | .sense1 => b.sense1
  | .sense2 => b.sense2
  | .sense3 => b.sense3
  | .sense4 => b.sense4
  | .trapMode => b.trapMode
  | .halt => b.halt
  | .autoManual => b.autoManual

/-- The bank with one flag written; the flags are independent (10_state R30). -/
def FlagBank.write (b : FlagBank) (f : Flag) (v : Bool) : FlagBank :=
  match f with
  | .acOverflow => { b with acOverflow := v }
  | .mqOverflow => { b with mqOverflow := v }
  | .divideCheck => { b with divideCheck := v }
  | .rwCheck => { b with rwCheck := v }
  | .tapeCheck => { b with tapeCheck := v }
  | .rwSelect => { b with rwSelect := v }
  | .sense1 => { b with sense1 := v }
  | .sense2 => { b with sense2 := v }
  | .sense3 => { b with sense3 := v }
  | .sense4 => { b with sense4 := v }
  | .trapMode => { b with trapMode := v }
  | .halt => { b with halt := v }
  | .autoManual => { b with autoManual := v }

/-- What a divide overflow writes: `F.divide_check` always, `F.halt` too when the opcode halts; every other flag is
unchanged and none is ever cleared (45_multiply_divide R205, 10_state R32). -/
def divideOverflowFlags (b : FlagBank) (halts : Bool) : FlagBank :=
  let checked := b.write .divideCheck true
  if halts then checked.write .halt true else checked

/-- A flag of the state, as the caller reads it (46_bulk_and_host R226). -/
def State.readFlag (s : State) (f : Flag) : Bool := s.flags.read f

end Sys2Proof.Machine
end

