-- ==== Sys2Proof/Machine/Codec.lean ====
section
/-!
DEFINITION. The bit-field utilities and the sign-magnitude codec (40_bitfield_and_codec R120 to R131). They are no
commands; the meanings use the utilities, and no meaning calls the codec's arithmetic (R128, R130).
-/

namespace Sys2Proof.Machine

/-- Bit `s` of `w` (R120). The position's range is part of its type (R124). -/
def getbit {n : Nat} (w : BitVec n) (s : Fin n) : Bool := w.getLsbD s.val

/-- `w` with bit `s` forced to 1 (R121). -/
def setbit {n : Nat} (w : BitVec n) (s : Fin n) : BitVec n := w ||| BitVec.twoPow n s.val

/-- `w` with bit `s` forced to 0 (R122). -/
def clearbit {n : Nat} (w : BitVec n) (s : Fin n) : BitVec n := w &&& ~~~ BitVec.twoPow n s.val

/-- `w` with bit `s` inverted (R123). -/
def togglebit {n : Nat} (w : BitVec n) (s : Fin n) : BitVec n := w ^^^ BitVec.twoPow n s.val

/-- `toSigned(w, s)` of a word of width `s+1`: its magnitude, negated when the sign bit `s` is set (R126). -/
def toSigned {s : Nat} (w : BitVec (s + 1)) : Int :=
  let m := (clearbit w (Fin.last s)).toNat
  if getbit w (Fin.last s) then -(m : Int) else m

/-- `toWord(v, s)`: magnitude `|v|`, sign bit set exactly when `v < 0` (R127). Outside the contract `|v| <= 2^s - 1`
the call is refused (R130, decision D19; log entry 15). -/
def toWord (s : Nat) (v : Int) : Option (BitVec (s + 1)) :=
  if v.natAbs < 2 ^ s then
    let m := BitVec.ofNat (s + 1) v.natAbs
    some (if v < 0 then setbit m (Fin.last s) else m)
  else
    none

/-- The codec's `add(a, b, s)`, textbook sign-magnitude addition, refused when the sum does not fit (R128, R130). It is
not what the ADD opcode computes. -/
def signedAdd {s : Nat} (a b : BitVec (s + 1)) : Option (BitVec (s + 1)) :=
  toWord s (toSigned a + toSigned b)

end Sys2Proof.Machine
end

