-- ==== Sys2Proof/Machine/Operands.lean ====
section
/-!
DEFINITION. The named fields of words and of the accumulator (00_scope R10, 40_bitfield_and_codec R125), the words
built from them, and the raw 38-bit accumulator arithmetic (44_add_subtract R180).
-/

namespace Sys2Proof.Machine

/-- `W.S = W[35]`, 1 meaning negative. -/
def wordSign (w : Word36) : Bool := getbit w 35

/-- `W.M = W[34:0]`. -/
def wordMag (w : Word36) : Magnitude := w.extractLsb 34 0

/-- `AC.S = AC[37]`, 1 meaning negative. -/
def acSign (a : AcWord) : Bool := getbit a 37

/-- `AC.P = AC[36]`. -/
def acP (a : AcWord) : Bool := getbit a 36

/-- `AC.Q = AC[35]`. -/
def acQ (a : AcWord) : Bool := getbit a 35

/-- `AC.M = AC[34:0]`; it never includes P or Q (R125). -/
def acMag (a : AcWord) : Magnitude := a.extractLsb 34 0

/-- `AC.L = AC[35:0]`, "AC's low 36 bits". -/
def acLow (a : AcWord) : Word36 := a.extractLsb 35 0

/-- The word `{s, m}`. -/
def packWord (s : Bool) (m : Magnitude) : Word36 := BitVec.ofBool s ++ m

/-- The accumulator value `{s, p, q, m}`. -/
def packAc (s p q : Bool) (m : Magnitude) : AcWord :=
  BitVec.ofBool s ++ (BitVec.ofBool p ++ (BitVec.ofBool q ++ m))

/-- `withSign(b)` on a word: the sign is replaced, the rest unchanged (R125). -/
def wordWithSign (w : Word36) (b : Bool) : Word36 := packWord b (wordMag w)

/-- `withMagnitude(m)` on a word (R125). -/
def wordWithMag (w : Word36) (m : Magnitude) : Word36 := packWord (wordSign w) m

/-- `withSign(b)` on the accumulator: P, Q and the magnitude are unchanged (R125). -/
def acWithSign (a : AcWord) (b : Bool) : AcWord := if b then setbit a 37 else clearbit a 37

/-- `withMagnitude(m)` on the accumulator: P, Q and S are unchanged (R125). -/
def acWithMag (a : AcWord) (m : Magnitude) : AcWord := packAc (acSign a) (acP a) (acQ a) m

/-- "AC := AC + x" on the packed 38-bit integer, modulo 2^38 (R180, decision D1). -/
def rawAdd {n : Nat} (a : AcWord) (x : BitVec n) : AcWord := a + x.setWidth 38

/-- "AC := AC - x" on the packed 38-bit integer, modulo 2^38 (R180, decision D1). -/
def rawSub {n : Nat} (a : AcWord) (x : BitVec n) : AcWord := a - x.setWidth 38

end Sys2Proof.Machine
end

