-- ==== Sys2Proof/Machine/Ops.lean ====
section
/-!
DEFINITION. The named operations over registers and core memory that every meaning goes through: register access and
update, the memory as a list of cells, the two memory primitives of 20_memory R64 with their address check, and the
status a command reports (60_exceptions R245). Raising a contract violation is the machine's only exception: there is
no trap entry and no return (60_exceptions R251, R252).
-/

namespace Sys2Proof.Machine

/-- What a step answers. -/
abbrev Result := Host.Outcome State Fault Refusal

/-! ### Registers -/

/-- The register of a given name, at its full width (46_bulk_and_host R226). -/
def State.readRegister (s : State) : (r : Register) → BitVec r.width
  | .ac => s.ac
  | .mq => s.mq
  | .sr => s.sr
  | .xr1 => s.xr1
  | .xr2 => s.xr2
  | .xr3 => s.xr3
  | .ilc => s.ilc
  | .ir => s.ir

/-- One register written; no two registers alias (10_state R20). -/
def State.writeRegister (s : State) : (r : Register) → BitVec r.width → State
  | .ac, v => { s with ac := v }
  | .mq, v => { s with mq := v }
  | .sr, v => { s with sr := v }
  | .xr1, v => { s with xr1 := v }
  | .xr2, v => { s with xr2 := v }
  | .xr3, v => { s with xr3 := v }
  | .ilc, v => { s with ilc := v }
  | .ir, v => { s with ir := v }

/-- `AC <- v` (00_scope R12). -/
def State.setAc (s : State) (v : AcWord) : State := { s with ac := v }

/-- `MQ <- v` (00_scope R12). -/
def State.setMq (s : State) (v : Word36) : State := { s with mq := v }

/-- The flag bank replaced. -/
def State.setFlags (s : State) (b : FlagBank) : State := { s with flags := b }

/-- The core memory replaced. -/
def State.setCore (s : State) (m : Memory) : State := { s with core := m }

/-- The caller's remaining actions replaced. -/
def State.setInputs (s : State) (l : List Input) : State := { s with inputs := l }

/-! ### Core memory as a list of cells -/

/-- The value given to word `a`, where one has been given. -/
def Memory.find : Memory → Nat → Option Word36
  | [], _ => none
  | (b, w) :: rest, a => if a = b then some w else Memory.find rest a

/-- What word `a` holds: the value last given to it, or, where none was given since construction, the free value of
log entry 2 (10_state R40). -/
def Memory.read (m : Memory) (a : Nat) : Word36 :=
  match Memory.find m a with
  | some w => w
  | none => Config.powerOnWord a

/-- `core[a] <- v`: the cell is put in its place among the rising addresses. -/
def Memory.write : Memory → Nat → Word36 → Memory
  | [], a, v => [(a, v)]
  | (b, w) :: rest, a, v =>
    if a < b then (a, v) :: (b, w) :: rest
    else if a = b then (a, v) :: rest
    else (b, w) :: Memory.write rest a v

/-- `count` words from address `first` on, each `+0` (46_bulk_and_host R221). -/
def Memory.zeros (first : Nat) : Nat → Memory
  | 0 => []
  | count + 1 => (first, 0#36) :: Memory.zeros (first + 1) count

/-- The cells' addresses rise strictly from `lo` on and stay below `size`. -/
def Memory.risingFrom (lo size : Nat) : Memory → Bool
  | [] => true
  | (a, _) :: rest => decide (lo ≤ a) && decide (a < size) && Memory.risingFrom (a + 1) size rest

/-- The canonical form of a core memory of `size` words: strictly rising addresses, every one of them valid
(20_memory R60). An unlisted word has no value of the model's own, so no cell repeats one (log entry 3). -/
def Memory.wf (size : Nat) (m : Memory) : Bool := Memory.risingFrom 0 size m

/-- The core word at address `a`, as the caller reads it (46_bulk_and_host R226). -/
def State.readWord (s : State) (a : Nat) : Word36 := Memory.read s.core a

/-- The state with word `a` given the value `v`. -/
def State.writeWord (s : State) (a : Nat) (v : Word36) : State := s.setCore (Memory.write s.core a v)

/-! ### The memory primitives and the contract violations -/

/-- `raise ContractViolation(AddressOutOfRange)`: the command ends, no state is changed and there is no successor; the
fault names the command or the caller's access (60_exceptions R247, R248). -/
def raiseAddressOutOfRange (who : Requester) (y : Addr) : Result := .fault (.addressOutOfRange who y)

/-- `raise ContractViolation(UnsupportedOpcode)` (60_exceptions R246, R248). -/
def raiseUnsupportedOpcode (w : Command) : Result := .fault (.unsupportedOpcode w)

/-- The one check there is, made before any effect (20_memory R64, 30_encoding R101 step 3): `act` runs when
`y < CORE_SIZE`, and otherwise the violation is raised in the name of `who`. The effective address is `y` itself. -/
def withValidAddress (who : Requester) (y : Addr) (s : State) (act : Result) : Result :=
  if y.toNat < s.coreSize then act else raiseAddressOutOfRange who y

/-- `MemRead(y, 36)` asked for by `who`, followed by what the command does with the word (20_memory R64). -/
def memRead (who : Requester) (y : Addr) (s : State) (use : Word36 → Result) : Result :=
  withValidAddress who y s (use (s.readWord y.toNat))

/-- `MemWrite(y, 36, v)` as the last act of `who` (20_memory R64). -/
def memWrite (who : Requester) (y : Addr) (v : Word36) (s : State) : Result :=
  withValidAddress who y s (.next (s.writeWord y.toNat v))

/-! ### The status of a command -/

/-- The `status` code of a contract violation (60_exceptions R245). -/
def Fault.status : Fault → BitVec 2
  | .addressOutOfRange _ _ => 1
  | .unsupportedOpcode _ => 2

/-- What the `status` port reports with `cmd_done` (30_encoding R91, 60_exceptions R245): 0 when the command completed.
DESIGN CHOICE, unsafe (log entry 19): R91 makes `status` valid with `cmd_done` only, so the spec gives it no value at a
step that completes no command (the idle step, a completed host access, `rst`); the model answers 0 there too. A refusal
of the model is no outcome of the hardware and has no code. -/
def statusOf : Result → Option (BitVec 2)
  | .next _ => some 0
  | .fault f => some f.status
  | .refused _ => none

end Sys2Proof.Machine
end

