-- ==== Sys2Proof/Machine/AddSubtract.lean ====
section
/-!
DEFINITION. Raw accumulator arithmetic: ADD ADM SUB SBM RND (44_add_subtract R180 to R185). The accumulator's own sign
is never consulted and no flag is written.
-/

namespace Sys2Proof.Machine

/-- ADD y (R181): a negative operand's magnitude is subtracted, a non-negative word is added raw. -/
def execAdd (y : Addr) (s : State) : Result :=
  memRead (.command (.add y)) y s fun w =>
    .next (s.setAc (if wordSign w then rawSub s.ac (wordMag w) else rawAdd s.ac w))

/-- ADM y (R182): the operand's magnitude is added, its sign ignored. -/
def execAdm (y : Addr) (s : State) : Result :=
  memRead (.command (.adm y)) y s fun w => .next (s.setAc (rawAdd s.ac (wordMag w)))

/-- SUB y (R183): a negative operand's magnitude is added, a non-negative word is subtracted raw. -/
def execSub (y : Addr) (s : State) : Result :=
  memRead (.command (.sub y)) y s fun w =>
    .next (s.setAc (if wordSign w then rawAdd s.ac (wordMag w) else rawSub s.ac w))

/-- SBM y (R184): the operand's magnitude is subtracted. -/
def execSbm (y : Addr) (s : State) : Result :=
  memRead (.command (.sbm y)) y s fun w => .next (s.setAc (rawSub s.ac (wordMag w)))

/-- The accumulator after RND: one more when `MQ[34] = 1` (R185). -/
def rndAc (ac : AcWord) (mq : Word36) : AcWord := if getbit mq 34 then rawAdd ac 1#1 else ac

/-- RND (R185). -/
def execRnd (s : State) : Result := .next (s.setAc (rndAc s.ac s.mq))

end Sys2Proof.Machine
end

