-- ==== Sys2Proof/Machine/Bulk.lean ====
section
/-!
DEFINITION. The four bulk clears: CLEAR_CORE CLEAR_ARITH CLEAR_PROG CLEAR_ALL (46_bulk_and_host R220 to R224). None
reads or writes a flag, none can raise a violation, each is one atomic command. The diagnostic text that `verbose` may
ask for is on a channel outside the state (R225).
-/

namespace Sys2Proof.Machine

/-- AC, MQ and SR to zero (R222). -/
def clearArithRegisters (s : State) : State := { s with ac := 0#38, mq := 0#36, sr := 0#36 }

/-- ILC, IR, SR and the index registers to zero (R223). -/
def clearProgRegisters (s : State) : State :=
  { s with ilc := 0#15, ir := 0#18, sr := 0#36, xr1 := 0#15, xr2 := 0#15, xr3 := 0#15 }

/-- CLEAR_CORE (R221): every one of the `CORE_SIZE` words becomes `+0`. -/
def execClearCore (s : State) : Result := .next (s.setCore (Memory.zeros 0 s.coreSize))

/-- CLEAR_ARITH (R222). -/
def execClearArith (s : State) : Result := .next (clearArithRegisters s)

/-- CLEAR_PROG (R223). -/
def execClearProg (s : State) : Result := .next (clearProgRegisters s)

/-- CLEAR_ALL (R224): the union of the two. -/
def execClearAll (s : State) : Result := .next (clearProgRegisters (clearArithRegisters s))

end Sys2Proof.Machine
end

