-- ==== Sys2Proof/Machine/LoadStore.lean ====
section
/-!
DEFINITION. Loads and stores: CLA CLS LDQ STO STQ SLQ STP STD STA (41_load_store R140 to R149).
-/

namespace Sys2Proof.Machine

/-- CLA y (R141): sign and magnitude of the word, P and Q cleared. -/
def execCla (y : Addr) (s : State) : Result :=
  memRead (.command (.cla y)) y s fun w => .next (s.setAc (packAc (wordSign w) false false (wordMag w)))

/-- CLS y (R142): as CLA with the operand's sign inverted. -/
def execCls (y : Addr) (s : State) : Result :=
  memRead (.command (.cls y)) y s fun w => .next (s.setAc (packAc (!wordSign w) false false (wordMag w)))

/-- LDQ y (R143): the 36 bits verbatim. -/
def execLdq (y : Addr) (s : State) : Result :=
  memRead (.command (.ldq y)) y s fun w => .next (s.setMq w)

/-- STO y (R144): the accumulator's sign and magnitude; P and Q are dropped (90_conflicts C4). -/
def execSto (y : Addr) (s : State) : Result :=
  memWrite (.command (.sto y)) y (packWord (acSign s.ac) (acMag s.ac)) s

/-- STQ y (R145): the 36 bits of MQ verbatim. -/
def execStq (y : Addr) (s : State) : Result :=
  memWrite (.command (.stq y)) y s.mq s

/-- `{ MQ[35:18], w[17:0] }` (R146). -/
def slqWord (mq w : Word36) : Word36 := mq.extractLsb 35 18 ++ w.extractLsb 17 0

/-- SLQ y (R146): bits 35:18 of the word from MQ, the rest unchanged. -/
def execSlq (y : Addr) (s : State) : Result :=
  memRead (.command (.slq y)) y s fun w => memWrite (.command (.slq y)) y (slqWord s.mq w) s

/-- `{ AC.S, AC[34:33], w[32:0] }` (R147, decision D2). -/
def stpWord (ac : AcWord) (w : Word36) : Word36 :=
  BitVec.ofBool (acSign ac) ++ (ac.extractLsb 34 33 ++ w.extractLsb 32 0)

/-- STP y (R147): bits 35:33 of the word from the accumulator's sign and its two high magnitude bits. -/
def execStp (y : Addr) (s : State) : Result :=
  memRead (.command (.stp y)) y s fun w => memWrite (.command (.stp y)) y (stpWord s.ac w) s

/-- `{ w[35:33], AC[32:18], w[17:0] }` (R148). -/
def stdWord (ac : AcWord) (w : Word36) : Word36 :=
  w.extractLsb 35 33 ++ (ac.extractLsb 32 18 ++ w.extractLsb 17 0)

/-- STD y (R148): bits 32:18 of the word from the accumulator. -/
def execStd (y : Addr) (s : State) : Result :=
  memRead (.command (.std y)) y s fun w => memWrite (.command (.std y)) y (stdWord s.ac w) s

/-- `{ w[35:15], AC[14:0] }` (R149). -/
def staWord (ac : AcWord) (w : Word36) : Word36 := w.extractLsb 35 15 ++ ac.extractLsb 14 0

/-- STA y (R149): bits 14:0 of the word from the accumulator. -/
def execSta (y : Addr) (s : State) : Result :=
  memRead (.command (.sta y)) y s fun w => memWrite (.command (.sta y)) y (staWord s.ac w) s

end Sys2Proof.Machine
end

