-- ==== Sys2Proof/Machine/Logical.lean ====
section
/-!
DEFINITION. Logical load and logical add: CAL ACL (43_logical R170 to R172). Both treat the word as a plain 36-bit
pattern and change only the accumulator.
-/

namespace Sys2Proof.Machine

/-- `AC[35:0] <- w`; S and P unchanged (R171, decision D3). -/
def calAc (ac : AcWord) (w : Word36) : AcWord :=
  BitVec.ofBool (acSign ac) ++ (BitVec.ofBool (acP ac) ++ w)

/-- CAL y (R171): the word's bit 35 lands in Q. -/
def execCal (y : Addr) (s : State) : Result :=
  memRead (.command (.cal y)) y s fun w => .next (s.setAc (calAc s.ac w))

/-- The 36-bit sum with the new P `old P and carry`; the sign unchanged (R172, decision D4). -/
def aclAc (ac : AcWord) (w : Word36) : AcWord :=
  let sum := (acLow ac).toNat + w.toNat
  let carry := decide (2 ^ 36 ≤ sum)
  BitVec.ofBool (acSign ac) ++ (BitVec.ofBool (acP ac && carry) ++ BitVec.ofNat 36 sum)

/-- ACL y (R172): unsigned 36-bit addition into the accumulator's low 36 bits. -/
def execAcl (y : Addr) (s : State) : Result :=
  memRead (.command (.acl y)) y s fun w => .next (s.setAc (aclAc s.ac w))

end Sys2Proof.Machine
end

