-- ==== Sys2Proof/Machine/MultiplyDivide.lean ====
section
/-!
DEFINITION. Multiply and divide: MPY MPR DVH DVP (45_multiply_divide R200 to R207). Magnitudes are multiplied and
divided as mathematical integers, signs are combined by exclusive or and attached afterwards, a zero result included.
-/

namespace Sys2Proof.Machine

/-- The state after `MPY` by the word `w`: the 70-bit product split over AC and MQ (R201). -/
def multiply (w : Word36) (s : State) : State :=
  let prod := (wordMag w).toNat * (wordMag s.mq).toNat
  let sg := wordSign w ^^ wordSign s.mq
  (s.setAc (packAc sg false false (BitVec.ofNat 35 (prod / 2 ^ 35)))).setMq
    (packWord sg (BitVec.ofNat 35 (prod % 2 ^ 35)))

/-- MPY y (R201). -/
def execMpy (y : Addr) (s : State) : Result :=
  memRead (.command (.mpy y)) y s fun w => .next (multiply w s)

/-- MPR y (R202): MPY y, then RND on the AC and MQ that it wrote, as one command. -/
def execMpr (y : Addr) (s : State) : Result :=
  memRead (.command (.mpr y)) y s fun w =>
    let t := multiply w s
    .next (t.setAc (rndAc t.ac t.mq))

/-- The divide procedure shared by DVH and DVP (R205): on divide overflow, `d <= AC.M`, only flags are written;
otherwise quotient to MQ and remainder to AC, both with the sign `AC.S xor w.S`, and no flag is written. -/
def divide (halts : Bool) (w : Word36) (s : State) : State :=
  let d := (wordMag w).toNat
  let high := (acMag s.ac).toNat
  if d ≤ high then
    s.setFlags (divideOverflowFlags s.flags halts)
  else
    let n := high * 2 ^ 35 + (wordMag s.mq).toNat
    let sg := acSign s.ac ^^ wordSign w
    (s.setMq (packWord sg (BitVec.ofNat 35 (n / d)))).setAc
      (packAc sg false false (BitVec.ofNat 35 (n % d)))

/-- DVH y (R203): divide or halt. -/
def execDvh (y : Addr) (s : State) : Result :=
  memRead (.command (.dvh y)) y s fun w => .next (divide true w s)

/-- DVP y (R204): divide or proceed; `F.halt` is never written. -/
def execDvp (y : Addr) (s : State) : Result :=
  memRead (.command (.dvp y)) y s fun w => .next (divide false w s)

end Sys2Proof.Machine
end

