-- ==== Sys2Proof/Machine/SignClear.lean ====
section
/-!
DEFINITION. Accumulator sign and clear operations: CLM CHS SSP SSM (42_sign_and_clear R160 to R164). Each changes only
the accumulator and can raise no violation.
-/

namespace Sys2Proof.Machine

/-- CLM (R161): magnitude, P and Q cleared, the sign kept. -/
def execClm (s : State) : Result := .next (s.setAc (packAc (acSign s.ac) false false 0#35))

/-- CHS (R162): the sign inverted. -/
def execChs (s : State) : Result := .next (s.setAc (togglebit s.ac 37))

/-- SSP (R163): the sign forced positive. -/
def execSsp (s : State) : Result := .next (s.setAc (acWithSign s.ac false))

/-- SSM (R164): the sign forced negative. -/
def execSsm (s : State) : Result := .next (s.setAc (acWithSign s.ac true))

end Sys2Proof.Machine
end

