-- ==== Sys2Proof/Machine/Dispatch.lean ====
section
/-!
DEFINITION. The engine's dispatch: one arm per command, each one direct call of its meaning (30_encoding R101 step 4).
-/

namespace Sys2Proof.Machine

def exec (i : Instr) (s : State) : Host.Outcome State Fault Refusal :=
  match i with
  | .cla y => Sys2Proof.Machine.execCla y s
  | .cls y => Sys2Proof.Machine.execCls y s
  | .ldq y => Sys2Proof.Machine.execLdq y s
  | .sto y => Sys2Proof.Machine.execSto y s
  | .stq y => Sys2Proof.Machine.execStq y s
  | .slq y => Sys2Proof.Machine.execSlq y s
  | .stp y => Sys2Proof.Machine.execStp y s
  | .std y => Sys2Proof.Machine.execStd y s
  | .sta y => Sys2Proof.Machine.execSta y s
  | .clm => Sys2Proof.Machine.execClm s
  | .chs => Sys2Proof.Machine.execChs s
  | .ssp => Sys2Proof.Machine.execSsp s
  | .ssm => Sys2Proof.Machine.execSsm s
  | .cal y => Sys2Proof.Machine.execCal y s
  | .acl y => Sys2Proof.Machine.execAcl y s
  | .add y => Sys2Proof.Machine.execAdd y s
  | .adm y => Sys2Proof.Machine.execAdm y s
  | .sub y => Sys2Proof.Machine.execSub y s
  | .sbm y => Sys2Proof.Machine.execSbm y s
  | .rnd => Sys2Proof.Machine.execRnd s
  | .mpy y => Sys2Proof.Machine.execMpy y s
  | .mpr y => Sys2Proof.Machine.execMpr y s
  | .dvh y => Sys2Proof.Machine.execDvh y s
  | .dvp y => Sys2Proof.Machine.execDvp y s
  | .clearCore => Sys2Proof.Machine.execClearCore s
  | .clearArith => Sys2Proof.Machine.execClearArith s
  | .clearProg => Sys2Proof.Machine.execClearProg s
  | .clearAll => Sys2Proof.Machine.execClearAll s

end Sys2Proof.Machine
end

