-- ==== Sys2Proof/Machine/Caller.lean ====
section
/-!
DEFINITION. The caller's side of a step (30_encoding R91, 46_bulk_and_host R226 to R229, 70_reset_and_hazards R280):
which action comes next, what presenting a command word does, and the host accesses.
-/

namespace Sys2Proof.Machine

/-- The caller's next action, and the state with that action taken off the list; nothing when the caller issues no
more (R230). -/
def State.takeInput (s : State) : Option (Input × State) :=
  match s.inputs with
  | [] => none
  | e :: rest => some (e, s.setInputs rest)

/-- The engine with no command presented: nothing changes (log entry 7). -/
def idle (s : State) : Result := .next s

/-- The engine's procedure for one command word: the tag is tested first, then, by the meaning itself, the address
(30_encoding R101, 60_exceptions R250). -/
def runCommand (w : Command) (s : State) : Result :=
  match decode w with
  | .ok i => exec i s
  | .error _ => raiseUnsupportedOpcode w

/-- `rst` between commands: registers zero and flags false, core memory kept (10_state R39, 70_reset_and_hazards R280,
R281). The construction parameters and the caller's further actions stay (log entry 14). -/
def State.hostReset (s : State) : State :=
  { State.construct s.coreSize s.verbose with core := s.core, inputs := s.inputs }

/-- One access through the host port. A read changes nothing; what it answers is `State.readRegister`,
`State.readFlag` and `State.readWord` (46_bulk_and_host R226). A core access at or above `CORE_SIZE` is a contract
violation (R226, 60_exceptions R245). -/
def hostAccess (h : HostAccess) (s : State) : Result :=
  match h with
  | .readRegister _ => .next s
  | .readFlag _ => .next s
  | .readCore a => memRead (.host (.readCore a)) a s fun _ => .next s
  | .writeRegister r v => .next (s.writeRegister r v)
  | .writeFlag f b => .next (s.setFlags (s.flags.write f b))
  | .writeCore a w => memWrite (.host (.writeCore a w)) a w s
  | .reset => .next s.hostReset

end Sys2Proof.Machine
end

