-- ==== Sys2Proof/Machine/Step.lean ====
section
/-!
DEFINITION. One step of the machine: the caller's next action, taken whole (00_scope R15). The machine fetches nothing
from core memory (20_memory R72): its next instruction is the command word the caller presents.
-/

namespace Sys2Proof.Machine

/-- One step: a command word is run, a host access is made, and with no action pending the engine stays as it is. -/
def step (s : State) : Host.Outcome State Fault Refusal :=
  match s.takeInput with
  | none => idle s
  | some (.command w, t) => runCommand w t
  | some (.host h, t) => hostAccess h t

/-- `s` with the command word of `nbits` bits `w` as the caller's very next action (log entries 6 and 12): step fetches
its next instruction from the `cmd` port, so this and nothing else is changed. -/
def State.withFetchWord (s : State) (nbits w : Nat) : State :=
  s.setInputs (.command (BitVec.ofNat 20 (w % 2 ^ nbits)) :: s.inputs)

end Sys2Proof.Machine
end

