-- ==== Sys2Proof/Safety.lean ====
section
/-!
DEFINITION. The terms in which claims speak of the machine: the invariant of its state, what a command leaves
unchanged, how a command of each format ends, and a run without a contract violation.
-/

namespace Sys2Proof.Machine

/-- The invariant of the machine: `CORE_SIZE` is legal (00_scope R7) and core memory is in its canonical form, every
listed address a valid one (20_memory R60). -/
abbrev State.wf (s : State) : Prop :=
  Config.legalCoreSize s.coreSize ∧ Memory.wf s.coreSize s.core = true

/-- `t` differs from `s` at most in the registers of `regs`, the flags of `flags` and the core words whose address
satisfies `stored`. -/
structure Frame (regs : List Register) (flags : List Flag) (stored : Nat → Prop) (s t : State) : Prop where
  registers : ∀ r, r ∉ regs → t.readRegister r = s.readRegister r
  flagBank : ∀ f, f ∉ flags → t.readFlag f = s.readFlag f
  memory : ∀ a, ¬ stored a → t.readWord a = s.readWord a
  coreSize : t.coreSize = s.coreSize
  verbose : t.verbose = s.verbose
  inputs : t.inputs = s.inputs

/-- No core word is stored to. -/
def noWord : Nat → Prop := fun _ => False

/-- Only the core word at the command's own address `y` is stored to; the effective address is `y` itself (20_memory
R64). -/
def wordAt (y : Addr) : Nat → Prop := fun a => a = y.toNat

/-- A format M command with this tag (30_encoding R93, R96, R101; the tag numbers are the spec's own decision D11, how
a violation is reported its decision D10): the word `{tag, y}` decodes to it; with
`y < CORE_SIZE` it COMPLETES, in a next state that `effect` describes; with `y >= CORE_SIZE` it ends in
`ContractViolation(AddressOutOfRange)`, which names it. For every `y` and every state. -/
def CompletesWithAddress (tag : Tag) (ins : Addr → Instr) (effect : Addr → State → State → Prop) : Prop :=
  ∀ (y : Addr) (s : State),
    decode (tag ++ y) = .ok (ins y) ∧
    (y.toNat < s.coreSize → ∃ t, exec (ins y) s = .next t ∧ effect y s t) ∧
    (s.coreSize ≤ y.toNat → exec (ins y) s = .fault (.addressOutOfRange (.command (ins y)) y))

/-- A command of format N or B with this tag (30_encoding R93, R95; the tag numbers are the spec's own decision D11, that
the field `x` is ignored its decision D12): every word `{tag, x}` decodes to it, whatever `x` holds, and it COMPLETES in every
state, in a next state that `effect` describes. -/
def CompletesWithoutAddress (tag : Tag) (ins : Instr) (effect : State → State → Prop) : Prop :=
  ∀ (x : Addr) (s : State),
    decode (tag ++ x) = .ok ins ∧
    ∃ t, exec ins s = .next t ∧ effect s t

/-- `k` steps raise no contract violation: the premise "no contract violation occurred" of a claim about a run
(60_exceptions R248). -/
def runsClean (k : Nat) (s : State) : Prop := ∃ t, Sys2Proof.core.run k s = .next t

end Sys2Proof.Machine
end

