-- ==== Sys2Proof/Certificates/Slice0/Obligations.lean ====
section
/-!
DEFINITION. The statements for the provers, from the spec's numbered rules. `w.getLsbD k` is bit `k` of `w`; for a
36-bit word `w`, `w.toNat % 2 ^ 35` is its magnitude and `w.getLsbD 35` its sign; for the accumulator `a`,
`a.toNat % 2 ^ 35` is `AC.M` and bits 37, 36 and 35 are S, P and Q.
-/

open Sys2Proof Sys2Proof.Machine

/-! ### Encoding -/

/-- The decoder undoes the encoder on every instruction, with every operand (30_encoding R92, R96, R97). -/
def Obligations.DecodeUndoesEncode : Prop :=
  ∀ i : Instr, decode (encode i) = .ok i

/-- R99: each of the 2^20 command words selects exactly one row of the opcode map or is refused. The instruction it
decodes to has the row's mnemonic and format and carries `cmd[14:0]` where that format has an address. -/
def Obligations.EveryWordSelectsOneRowOrIsRefused : Prop :=
  ∀ w : Command,
    (28 ≤ (tagField w).toNat →
      (∀ r ∈ opcodeTable, w &&& r.mask ≠ r.pattern) ∧
      decode w = .error (.unsupportedOpcode (tagField w))) ∧
    ((tagField w).toNat < 28 →
      ∃ r ∈ opcodeTable, w &&& r.mask = r.pattern ∧
        (∀ r' ∈ opcodeTable, w &&& r'.mask = r'.pattern → r' = r) ∧
        ∃ i, decode w = .ok i ∧ i.mnemonic = r.mnemonic ∧ i.format = r.format ∧
          (r.format = .M → i.address? = some (addrField w)) ∧
          (r.format ≠ .M → i.address? = none))

/-- A format M instruction is spelled by one word only: encoding what a word decodes to gives the word back; for
formats N and B it gives the word with the ignored field zero (R95; that the encoder writes zeros is the model's choice,
log entry 11). -/
def Obligations.EncodeUndoesDecode : Prop :=
  ∀ (w : Command) (i : Instr), decode w = .ok i →
    (i.format = .M → encode i = w) ∧
    (i.format ≠ .M → encode i = tagField w ++ 0#15)

/-- Words of 95_test_vectors (the tag numbers are the spec's own decision D11), written out from the encoding of R92:
`ADD 1`, `MPY 10`, `STP 20`, `CLM` with a non-zero ignored field, `CLEAR_CORE` with an ignored field of ones, and two
words that select nothing. -/
def Obligations.SpecWordsDecode : Prop :=
  decode 0x78001#20 = .ok (.add 1#15) ∧
  decode 0xA000A#20 = .ok (.mpy 10#15) ∧
  decode 0x30014#20 = .ok (.stp 20#15) ∧
  decode 0x48123#20 = .ok .clm ∧
  decode 0xC7FFF#20 = .ok .clearCore ∧
  decode 0xE0000#20 = .error (.unsupportedOpcode 28#5) ∧
  decode 0xFFFFF#20 = .error (.unsupportedOpcode 31#5)

/-! ### Bit-field utilities and codec -/

/-- R120 to R123, bit by bit: `setbit`, `clearbit` and `togglebit` change bit `s` alone. -/
def Obligations.BitUtilitiesTouchOneBit : Prop :=
  ∀ (n : Nat) (w : BitVec n) (s : Fin n),
    getbit w s = w.getLsbD s.val ∧
    (∀ k < n, (setbit w s).getLsbD k = if k = s.val then true else w.getLsbD k) ∧
    (∀ k < n, (clearbit w s).getLsbD k = if k = s.val then false else w.getLsbD k) ∧
    (∀ k < n, (togglebit w s).getLsbD k = if k = s.val then !(w.getLsbD k) else w.getLsbD k)

/-- R129: the round trip is the identity on every word but negative zero, which goes to `+0`; and `toSigned` undoes
`toWord` on every integer within the contract. -/
def Obligations.CodecRoundTrip : Prop :=
  ∀ s : Nat,
    (∀ w : BitVec (s + 1), w ≠ BitVec.twoPow (s + 1) s → toWord s (toSigned w) = some w) ∧
    toWord s (toSigned (BitVec.twoPow (s + 1) s)) = some 0#(s + 1) ∧
    (∀ v : Int, v.natAbs ≤ 2 ^ s - 1 → ∃ w : BitVec (s + 1), toWord s v = some w ∧ toSigned w = v)

/-- R128 with R130: the codec's `add` is exact where the sum fits, never answers negative zero, and is refused where
the sum does not fit. -/
def Obligations.CodecAddIsExactOrRefused : Prop :=
  ∀ (s : Nat) (a b : BitVec (s + 1)),
    ((toSigned a + toSigned b).natAbs < 2 ^ s →
      ∃ c : BitVec (s + 1), signedAdd a b = some c ∧ toSigned c = toSigned a + toSigned b ∧
        c ≠ BitVec.twoPow (s + 1) s) ∧
    (2 ^ s ≤ (toSigned a + toSigned b).natAbs → signedAdd a b = none)

/-! ### Reset and the step -/

/-- R39: after construction, for every `CORE_SIZE` and every verbosity, the eight registers are 0, the 13 flags are
false, `verbose` is the value given, and every core word is unspecified: it reads as the free value, of which nothing is
known (log entry 2). -/
def Obligations.ConstructionClearsRegistersAndFlags : Prop :=
  ∀ (n : Nat) (b : Bool),
    (∀ r, ((State.construct n b).readRegister r).toNat = 0) ∧
    (∀ f, (State.construct n b).readFlag f = false) ∧
    (State.construct n b).verbose = b ∧
    (State.construct n b).coreSize = n ∧
    ∀ a, (State.construct n b).readWord a = Config.powerOnWord a

/-- The state after reset is a construction with the default 8192 words (00_scope R7; `verbose` false is the model's
choice, log entry 5) and has the invariant of `StepKeepsWellFormed`. -/
def Obligations.ResetIsWellFormed : Prop :=
  State.reset = State.construct 8192 false ∧ State.reset.wf

/-- The invariant is kept by every step from every state that has it. -/
def Obligations.StepKeepsWellFormed : Prop :=
  ∀ s t : State, s.wf → step s = .next t → t.wf

/-- The step that finds a command word which decodes runs `exec` of that instruction, in the state with the caller's
action taken off the list, and adds nothing. -/
def Obligations.StepRunsDecodedCommand : Prop :=
  ∀ (s : State) (w : Command) (rest : List Input) (i : Instr),
    s.inputs = .command w :: rest → decode w = .ok i →
      step s = exec i { s with inputs := rest }

/-- R246: a command whose tag is 28 to 31 raises `ContractViolation(UnsupportedOpcode)`. -/
def Obligations.UnsupportedTagIsViolation : Prop :=
  ∀ (s : State) (w : Command) (rest : List Input),
    s.inputs = .command w :: rest → 28 ≤ w.toNat / 2 ^ 15 →
      step s = .fault (.unsupportedOpcode w)

/-- Totality (R16, R101, R245, R250; the codes are the spec's own decision D10, the order of the checks its decision
D17): what each step answers, for every state. With no action of the caller the state is unchanged (the model's
choice, log entry 7). A command word with an unsupported tag is tested first; then a format M address; a command that
passes both completes. A host access to a core word at or above `CORE_SIZE` is a violation, and every other host
access completes (decision D13, log entry 13). Every violation names the command or the access that raised it (R248).
No step refuses. -/
def Obligations.StepOutcomes : Prop :=
  ∀ s : State,
    (s.inputs = [] → step s = .next s) ∧
    (∀ w rest, s.inputs = .command w :: rest →
      (28 ≤ w.toNat / 2 ^ 15 → step s = .fault (.unsupportedOpcode w)) ∧
      (w.toNat / 2 ^ 15 < 28 →
        ∃ i, decode w = .ok i ∧
          (i.format = .M ∧ s.coreSize ≤ w.toNat % 2 ^ 15 →
            step s = .fault (.addressOutOfRange (.command i) (addrField w))) ∧
          (¬(i.format = .M ∧ s.coreSize ≤ w.toNat % 2 ^ 15) → ∃ t, step s = .next t))) ∧
    (∀ h rest, s.inputs = .host h :: rest →
      (∀ a : Addr, s.coreSize ≤ a.toNat → (h = .readCore a ∨ ∃ v, h = .writeCore a v) →
        step s = .fault (.addressOutOfRange (.host h) a)) ∧
      ((∀ a : Addr, (h = .readCore a ∨ ∃ v, h = .writeCore a v) → a.toNat < s.coreSize) →
        ∃ t, step s = .next t))

/-- R16, from the side of the instruction: a command whose address is in range completes in every state, and only the
address can stop a decoded command, in a violation that names it (R247, R248; the form of the violation is the spec's
own decision D10, log entry 8). -/
def Obligations.WellFormedCommandsComplete : Prop :=
  ∀ (i : Instr) (s : State),
    (i.wellFormed s.coreSize = true → ∃ t, exec i s = .next t) ∧
    (i.wellFormed s.coreSize = false →
      ∃ y, i.address? = some y ∧ exec i s = .fault (.addressOutOfRange (.command i) y))

/-- R245 (the codes are the spec's own decision D10, log entry 8): every step reports status 0, 1 or 2, never 3: 0
exactly when there is a next state, 1 exactly on `AddressOutOfRange`, 2 exactly on `UnsupportedOpcode`. That the idle
step (log entry 7), a completed host access and `rst` report 0 is the model's choice (log entry 19): R91 makes
`status` valid with `cmd_done` only. -/
def Obligations.StatusIsZeroOneOrTwo : Prop :=
  ∀ s : State, ∃ c, statusOf (step s) = some c ∧ c ≠ 3#2 ∧
    (c = 0#2 ↔ ∃ t, step s = .next t) ∧
    (c = 1#2 ↔ ∃ who y, step s = .fault (.addressOutOfRange who y)) ∧
    (c = 2#2 ↔ ∃ w, step s = .fault (.unsupportedOpcode w))

/-! ### The caller -/

/-- R228, by the spec's own decision D13 (log entry 13): the caller can write any register to any value of its width;
the register then reads as written and nothing else changes. -/
def Obligations.CallerWritesRegister : Prop :=
  ∀ (s : State) (r : Register) (v : BitVec r.width) (rest : List Input),
    s.inputs = .host (.writeRegister r v) :: rest →
      ∃ t, step s = .next t ∧ t.readRegister r = v ∧
        Frame [r] [] noWord { s with inputs := rest } t

/-- R227, by the spec's own decision D13 (log entry 13): the caller can write any flag to false or to true; the other
flags and all other state stay. -/
def Obligations.CallerWritesFlag : Prop :=
  ∀ (s : State) (f : Flag) (b : Bool) (rest : List Input),
    s.inputs = .host (.writeFlag f b) :: rest →
      ∃ t, step s = .next t ∧ t.readFlag f = b ∧
        Frame [] [f] noWord { s with inputs := rest } t

/-- R228, R67 and the caller's row of R245, by the spec's own decisions D10 and D13 (log entry 13): the caller can
write any core word in range, which then reads as written,
every other word unchanged; out of range the access is a contract violation. -/
def Obligations.CallerWritesCore : Prop :=
  ∀ (s : State) (a : Addr) (v : Word36) (rest : List Input),
    s.inputs = .host (.writeCore a v) :: rest →
      (a.toNat < s.coreSize →
        ∃ t, step s = .next t ∧ t.readWord a.toNat = v ∧
          Frame [] [] (wordAt a) { s with inputs := rest } t) ∧
      (s.coreSize ≤ a.toNat → step s = .fault (.addressOutOfRange (.host (.writeCore a v)) a))

/-- R226, by the spec's own decision D13 (log entry 13): a read by the caller changes nothing; a read of a core
address out of range is a contract violation. -/
def Obligations.CallerReadsChangeNothing : Prop :=
  ∀ (s : State) (rest : List Input),
    (∀ r, s.inputs = .host (.readRegister r) :: rest → step s = .next { s with inputs := rest }) ∧
    (∀ f, s.inputs = .host (.readFlag f) :: rest → step s = .next { s with inputs := rest }) ∧
    (∀ a : Addr, s.inputs = .host (.readCore a) :: rest →
      (a.toNat < s.coreSize → step s = .next { s with inputs := rest }) ∧
      (s.coreSize ≤ a.toNat → step s = .fault (.addressOutOfRange (.host (.readCore a)) a)))

/-- R280, R281, by the spec's own decision D16 (log entry 14): `rst` puts registers and flags in the all-zero, false
state and keeps every core word (that `CORE_SIZE`, `verbose` and the caller's further actions stay is the model's
choice, log entry 14). -/
def Obligations.HostResetKeepsCore : Prop :=
  ∀ (s : State) (rest : List Input), s.inputs = .host .reset :: rest →
    ∃ t, step s = .next t ∧ (∀ r, (t.readRegister r).toNat = 0) ∧ (∀ f, t.readFlag f = false) ∧
      (∀ a, t.readWord a = s.readWord a) ∧
      t.coreSize = s.coreSize ∧ t.verbose = s.verbose ∧ t.inputs = rest

/-! ### Loads and stores -/

/-- R141 CLA. The tag is the spec's own decision D11, SR's place in the frame its decision D8, the form of the
violation its decision D10 (log entries 10 and 8). -/
def Obligations.ClaLoadsSignAndMagnitude : Prop :=
  CompletesWithAddress 0#5 .cla fun y s t =>
    (∀ k < 38, t.ac.getLsbD k =
      if k = 37 then (s.readWord y.toNat).getLsbD 35
      else if k < 35 then (s.readWord y.toNat).getLsbD k else false) ∧
    Frame [.ac] [] noWord s t

/-- R142 CLS. The tag is the spec's own decision D11, SR's place in the frame its decision D8, the form of the
violation its decision D10 (log entries 10 and 8). -/
def Obligations.ClsLoadsInvertedSign : Prop :=
  CompletesWithAddress 1#5 .cls fun y s t =>
    (∀ k < 38, t.ac.getLsbD k =
      if k = 37 then !((s.readWord y.toNat).getLsbD 35)
      else if k < 35 then (s.readWord y.toNat).getLsbD k else false) ∧
    Frame [.ac] [] noWord s t

/-- R143 LDQ. The tag is the spec's own decision D11, SR's place in the frame its decision D8, the form of the
violation its decision D10 (log entries 10 and 8). -/
def Obligations.LdqLoadsWordVerbatim : Prop :=
  CompletesWithAddress 2#5 .ldq fun y s t =>
    t.mq = s.readWord y.toNat ∧ Frame [.mq] [] noWord s t

/-- R144 STO. The tag is the spec's own decision D11, SR's place in the frame its decision D8, the form of the
violation its decision D10 (log entries 10 and 8). -/
def Obligations.StoStoresSignAndMagnitude : Prop :=
  CompletesWithAddress 3#5 .sto fun y s t =>
    (∀ k < 36, (t.readWord y.toNat).getLsbD k =
      if k = 35 then s.ac.getLsbD 37 else s.ac.getLsbD k) ∧
    Frame [] [] (wordAt y) s t

/-- R145 STQ. The tag is the spec's own decision D11, SR's place in the frame its decision D8, the form of the
violation its decision D10 (log entries 10 and 8). -/
def Obligations.StqStoresMqVerbatim : Prop :=
  CompletesWithAddress 4#5 .stq fun y s t =>
    t.readWord y.toNat = s.mq ∧ Frame [] [] (wordAt y) s t

/-- R146 SLQ. The tag is the spec's own decision D11, SR's place in the frame its decision D8, the form of the
violation its decision D10 (log entries 10 and 8). -/
def Obligations.SlqStoresHighHalfOfMq : Prop :=
  CompletesWithAddress 5#5 .slq fun y s t =>
    (∀ k < 36, (t.readWord y.toNat).getLsbD k =
      if 18 ≤ k then s.mq.getLsbD k else (s.readWord y.toNat).getLsbD k) ∧
    Frame [] [] (wordAt y) s t

/-- R147 STP, with the source bits `{AC[37], AC[34:33]}` of the spec's own decision D2 (log entry 10). The tag is the
spec's own decision D11, SR's place in the frame its decision D8, the form of the violation its decision D10 (log
entries 10 and 8). -/
def Obligations.StpStoresPrefix : Prop :=
  CompletesWithAddress 6#5 .stp fun y s t =>
    (∀ k < 36, (t.readWord y.toNat).getLsbD k =
      if k = 35 then s.ac.getLsbD 37
      else if 33 ≤ k then s.ac.getLsbD k else (s.readWord y.toNat).getLsbD k) ∧
    Frame [] [] (wordAt y) s t

/-- R148 STD. The tag is the spec's own decision D11, SR's place in the frame its decision D8, the form of the
violation its decision D10 (log entries 10 and 8). -/
def Obligations.StdStoresDecrementField : Prop :=
  CompletesWithAddress 7#5 .std fun y s t =>
    (∀ k < 36, (t.readWord y.toNat).getLsbD k =
      if 18 ≤ k ∧ k ≤ 32 then s.ac.getLsbD k else (s.readWord y.toNat).getLsbD k) ∧
    Frame [] [] (wordAt y) s t

/-- R149 STA. The tag is the spec's own decision D11, SR's place in the frame its decision D8, the form of the
violation its decision D10 (log entries 10 and 8). -/
def Obligations.StaStoresAddressField : Prop :=
  CompletesWithAddress 8#5 .sta fun y s t =>
    (∀ k < 36, (t.readWord y.toNat).getLsbD k =
      if k < 15 then s.ac.getLsbD k else (s.readWord y.toNat).getLsbD k) ∧
    Frame [] [] (wordAt y) s t

/-- What R144 and R145 say of a store followed by the load of the same word: `CLA y` after `STO y` reloads S and M and
clears P and Q; `LDQ y` after `STQ y` leaves MQ as it was. -/
def Obligations.LoadAfterStoreReloads : Prop :=
  ∀ (y : Addr) (s t u : State),
    (exec (.sto y) s = .next t → exec (.cla y) t = .next u →
      ∀ k < 38, u.ac.getLsbD k = if k = 35 ∨ k = 36 then false else s.ac.getLsbD k) ∧
    (exec (.stq y) s = .next t → exec (.ldq y) t = .next u → u.mq = s.mq)

/-! ### Accumulator sign and clear -/

/-- R161 CLM. The tag is the spec's own decision D11, that any ignored field decodes to it its decision D12, SR's
place in the frame its decision D8 (log entries 10 and 11). -/
def Obligations.ClmClearsAllButSign : Prop :=
  CompletesWithoutAddress 9#5 .clm fun s t =>
    (∀ k < 38, t.ac.getLsbD k = if k = 37 then s.ac.getLsbD 37 else false) ∧
    Frame [.ac] [] noWord s t

/-- R162 CHS. The tag is the spec's own decision D11, that any ignored field decodes to it its decision D12, SR's
place in the frame its decision D8 (log entries 10 and 11). -/
def Obligations.ChsInvertsSign : Prop :=
  CompletesWithoutAddress 10#5 .chs fun s t =>
    (∀ k < 38, t.ac.getLsbD k = if k = 37 then !(s.ac.getLsbD 37) else s.ac.getLsbD k) ∧
    Frame [.ac] [] noWord s t

/-- R163 SSP. The tag is the spec's own decision D11, that any ignored field decodes to it its decision D12, SR's
place in the frame its decision D8 (log entries 10 and 11). -/
def Obligations.SspForcesSignPositive : Prop :=
  CompletesWithoutAddress 11#5 .ssp fun s t =>
    (∀ k < 38, t.ac.getLsbD k = if k = 37 then false else s.ac.getLsbD k) ∧
    Frame [.ac] [] noWord s t

/-- R164 SSM. The tag is the spec's own decision D11, that any ignored field decodes to it its decision D12, SR's
place in the frame its decision D8 (log entries 10 and 11). -/
def Obligations.SsmForcesSignNegative : Prop :=
  CompletesWithoutAddress 12#5 .ssm fun s t =>
    (∀ k < 38, t.ac.getLsbD k = if k = 37 then true else s.ac.getLsbD k) ∧
    Frame [.ac] [] noWord s t

/-! ### Logical -/

/-- R171 CAL; that `AC[37]` and `AC[36]` stay is the spec's own decision D3 (log entry 10). The tag is the spec's own
decision D11, SR's place in the frame its decision D8, the form of the violation its decision D10 (log entries 10 and
8). -/
def Obligations.CalLoadsLow36Bits : Prop :=
  CompletesWithAddress 13#5 .cal fun y s t =>
    (∀ k < 38, t.ac.getLsbD k =
      if k < 36 then (s.readWord y.toNat).getLsbD k else s.ac.getLsbD k) ∧
    Frame [.ac] [] noWord s t

/-- R172 ACL; that the new P is the old P and the carry is the spec's own decision D4 (log entry 10). The tag is the
spec's own decision D11, SR's place in the frame its decision D8, the form of the violation its decision D10 (log
entries 10 and 8). -/
def Obligations.AclAddsLow36Bits : Prop :=
  CompletesWithAddress 14#5 .acl fun y s t =>
    t.ac.toNat % 2 ^ 36 = (s.ac.toNat % 2 ^ 36 + (s.readWord y.toNat).toNat) % 2 ^ 36 ∧
    t.ac.getLsbD 36 =
      (s.ac.getLsbD 36 && decide (2 ^ 36 ≤ s.ac.toNat % 2 ^ 36 + (s.readWord y.toNat).toNat)) ∧
    t.ac.getLsbD 37 = s.ac.getLsbD 37 ∧
    Frame [.ac] [] noWord s t

/-! ### Raw arithmetic -/

/-- R181 ADD on the raw 38-bit integer; the reduction modulo 2^38 is the spec's own decision D1 (log entry 10). The
tag is the spec's own decision D11, SR's place in the frame its decision D8, the form of the violation its decision
D10 (log entries 10 and 8). -/
def Obligations.AddCombinesRawOperand : Prop :=
  CompletesWithAddress 15#5 .add fun y s t =>
    (t.ac.toNat : Int) =
      (if (s.readWord y.toNat).getLsbD 35
        then (s.ac.toNat : Int) - ((s.readWord y.toNat).toNat % 2 ^ 35 : Nat)
        else (s.ac.toNat : Int) + (s.readWord y.toNat).toNat) % 2 ^ 38 ∧
    Frame [.ac] [] noWord s t

/-- R182 ADM, modulo 2^38 by the spec's own decision D1 (log entry 10). The tag is the spec's own decision D11, SR's
place in the frame its decision D8, the form of the violation its decision D10 (log entries 10 and 8). -/
def Obligations.AdmAddsMagnitude : Prop :=
  CompletesWithAddress 16#5 .adm fun y s t =>
    t.ac.toNat = (s.ac.toNat + (s.readWord y.toNat).toNat % 2 ^ 35) % 2 ^ 38 ∧
    Frame [.ac] [] noWord s t

/-- R183 SUB, modulo 2^38 by the spec's own decision D1 (log entry 10). The tag is the spec's own decision D11, SR's
place in the frame its decision D8, the form of the violation its decision D10 (log entries 10 and 8). -/
def Obligations.SubCombinesRawOperand : Prop :=
  CompletesWithAddress 17#5 .sub fun y s t =>
    (t.ac.toNat : Int) =
      (if (s.readWord y.toNat).getLsbD 35
        then (s.ac.toNat : Int) + ((s.readWord y.toNat).toNat % 2 ^ 35 : Nat)
        else (s.ac.toNat : Int) - (s.readWord y.toNat).toNat) % 2 ^ 38 ∧
    Frame [.ac] [] noWord s t

/-- R184 SBM, modulo 2^38 by the spec's own decision D1 (log entry 10). The tag is the spec's own decision D11, SR's
place in the frame its decision D8, the form of the violation its decision D10 (log entries 10 and 8). -/
def Obligations.SbmSubtractsMagnitude : Prop :=
  CompletesWithAddress 18#5 .sbm fun y s t =>
    (t.ac.toNat : Int) =
      ((s.ac.toNat : Int) - ((s.readWord y.toNat).toNat % 2 ^ 35 : Nat)) % 2 ^ 38 ∧
    Frame [.ac] [] noWord s t

/-- R185 RND, modulo 2^38 by the spec's own decision D1 (log entry 10). The tag is the spec's own decision D11, that
any ignored field decodes to it its decision D12, SR's place in the frame its decision D8 (log entries 10 and 11). -/
def Obligations.RndAddsOneOnMqBit34 : Prop :=
  CompletesWithoutAddress 19#5 .rnd fun s t =>
    t.ac.toNat = (s.ac.toNat + if s.mq.getLsbD 34 then 1 else 0) % 2 ^ 38 ∧
    Frame [.ac] [] noWord s t

/-- R187: SUB after ADD, ADD after SUB, SBM after ADM and ADM after SBM of the same word restore the whole state, all
38 bits of the accumulator included, for every accumulator and every word. -/
def Obligations.SubAfterAddRestores : Prop :=
  ∀ (y : Addr) (s t u : State),
    (exec (.add y) s = .next t → exec (.sub y) t = .next u → u = s) ∧
    (exec (.sub y) s = .next t → exec (.add y) t = .next u → u = s) ∧
    (exec (.adm y) s = .next t → exec (.sbm y) t = .next u → u = s) ∧
    (exec (.sbm y) s = .next t → exec (.adm y) t = .next u → u = s)

/-- R186 for the adding ADM and the subtracting SBM from an accumulator with P = Q = 0, `m` the operand's magnitude:
where the raw result is the signed one, and what it is where it is not. -/
def Obligations.RawArithmeticAgainstSigned : Prop :=
  ∀ (y : Addr) (s t u : State),
    s.ac.getLsbD 36 = false → s.ac.getLsbD 35 = false →
    exec (.adm y) s = .next t → exec (.sbm y) s = .next u →
      let m := (s.readWord y.toNat).toNat % 2 ^ 35
      let n := s.ac.toNat % 2 ^ 35
      (s.ac.getLsbD 37 = false →
        t.ac.toNat = n + m ∧
        (m ≤ n → u.ac.toNat = n - m) ∧
        (n < m → u.ac.toNat = 2 ^ 37 + 2 ^ 36 + 2 ^ 35 + (2 ^ 35 - (m - n)))) ∧
      (s.ac.getLsbD 37 = true →
        t.ac.toNat = 2 ^ 37 + (n + m) ∧
        (m ≤ n → u.ac.toNat = 2 ^ 37 + (n - m)) ∧
        (n < m → u.ac.toNat = 2 ^ 36 + 2 ^ 35 + (2 ^ 35 - (m - n))))

/-! ### Multiply and divide -/

/-- R201 MPY. The tag is the spec's own decision D11, SR's place in the frame its decision D8, the form of the
violation its decision D10 (log entries 10 and 8). -/
def Obligations.MpySplitsProduct : Prop :=
  CompletesWithAddress 20#5 .mpy fun y s t =>
    let w := s.readWord y.toNat
    let prod := (w.toNat % 2 ^ 35) * (s.mq.toNat % 2 ^ 35)
    let sg := w.getLsbD 35 ^^ s.mq.getLsbD 35
    t.ac.toNat = (if sg then 2 ^ 37 else 0) + prod / 2 ^ 35 ∧
    t.mq.toNat = (if sg then 2 ^ 35 else 0) + prod % 2 ^ 35 ∧
    (t.ac.toNat % 2 ^ 35) * 2 ^ 35 + t.mq.toNat % 2 ^ 35 = prod ∧
    Frame [.ac, .mq] [] noWord s t

/-- R202 MPR: MPY then RND as one command; the high half is rounded up when bit 34 of the product is set, and the
increment never carries into Q. The tag is the spec's own decision D11, SR's place in the frame its decision D8, the
form of the violation its decision D10 (log entries 10 and 8). -/
def Obligations.MprRoundsProduct : Prop :=
  (CompletesWithAddress 21#5 .mpr fun y s t =>
    let w := s.readWord y.toNat
    let prod := (w.toNat % 2 ^ 35) * (s.mq.toNat % 2 ^ 35)
    let sg := w.getLsbD 35 ^^ s.mq.getLsbD 35
    t.ac.toNat = (if sg then 2 ^ 37 else 0) + (prod / 2 ^ 35 + if prod.testBit 34 then 1 else 0) ∧
    t.ac.getLsbD 36 = false ∧ t.ac.getLsbD 35 = false ∧
    t.mq.toNat = (if sg then 2 ^ 35 else 0) + prod % 2 ^ 35 ∧
    Frame [.ac, .mq] [] noWord s t) ∧
  ∀ (y : Addr) (s t : State), exec (.mpy y) s = .next t → exec (.mpr y) s = exec .rnd t

/-- R203 DVH, the procedure of R205 with `halts = true`. The dividend `AC.M * 2^35 + MQ.M`, its sign `AC.S` and the
cleared P and Q of the result are the spec's own decisions D5, D6 and D7 (log entry 10). The tag is the spec's own
decision D11, SR's place in the frame its decision D8, the form of the violation its decision D10 (log entries 10 and
8). -/
def Obligations.DvhDividesOrHalts : Prop :=
  CompletesWithAddress 22#5 .dvh fun y s t =>
    let w := s.readWord y.toNat
    let d := w.toNat % 2 ^ 35
    let n := (s.ac.toNat % 2 ^ 35) * 2 ^ 35 + s.mq.toNat % 2 ^ 35
    let sg := s.ac.getLsbD 37 ^^ w.getLsbD 35
    (d ≤ s.ac.toNat % 2 ^ 35 →
      t.readFlag .divideCheck = true ∧ t.readFlag .halt = true ∧
      Frame [] [.divideCheck, .halt] noWord s t) ∧
    (s.ac.toNat % 2 ^ 35 < d →
      t.mq.toNat = (if sg then 2 ^ 35 else 0) + n / d ∧
      t.ac.toNat = (if sg then 2 ^ 37 else 0) + n % d ∧
      Frame [.ac, .mq] [] noWord s t)

/-- R204 DVP, the procedure of R205 with `halts = false`: `F.halt` is never written. The dividend, its sign and the
cleared P and Q are the spec's own decisions D5, D6 and D7 (log entry 10). The tag is the spec's own decision D11,
SR's place in the frame its decision D8, the form of the violation its decision D10 (log entries 10 and 8). -/
def Obligations.DvpDividesOrProceeds : Prop :=
  CompletesWithAddress 23#5 .dvp fun y s t =>
    let w := s.readWord y.toNat
    let d := w.toNat % 2 ^ 35
    let n := (s.ac.toNat % 2 ^ 35) * 2 ^ 35 + s.mq.toNat % 2 ^ 35
    let sg := s.ac.getLsbD 37 ^^ w.getLsbD 35
    (d ≤ s.ac.toNat % 2 ^ 35 →
      t.readFlag .divideCheck = true ∧
      Frame [] [.divideCheck] noWord s t) ∧
    (s.ac.toNat % 2 ^ 35 < d →
      t.mq.toNat = (if sg then 2 ^ 35 else 0) + n / d ∧
      t.ac.toNat = (if sg then 2 ^ 37 else 0) + n % d ∧
      Frame [.ac, .mq] [] noWord s t)

/-- R206, first part: after a divide without overflow, quotient times divisor plus remainder is the dividend, and the
remainder is below the divisor. -/
def Obligations.DivideIdentity : Prop :=
  ∀ (y : Addr) (s t : State), exec (.dvh y) s = .next t ∨ exec (.dvp y) s = .next t →
    s.ac.toNat % 2 ^ 35 < (s.readWord y.toNat).toNat % 2 ^ 35 →
      (t.mq.toNat % 2 ^ 35) * ((s.readWord y.toNat).toNat % 2 ^ 35) + t.ac.toNat % 2 ^ 35 =
        (s.ac.toNat % 2 ^ 35) * 2 ^ 35 + s.mq.toNat % 2 ^ 35 ∧
      t.ac.toNat % 2 ^ 35 < (s.readWord y.toNat).toNat % 2 ^ 35

/-- R206, last part: MPY followed by DVH or DVP of the same word, of non-zero magnitude, never overflows and restores
the multiplier's magnitude, with a zero remainder and every flag as it was. -/
def Obligations.DivideAfterMultiplyRestores : Prop :=
  ∀ (y : Addr) (s t u : State), (s.readWord y.toNat).toNat % 2 ^ 35 ≠ 0 →
    exec (.mpy y) s = .next t → exec (.dvh y) t = .next u ∨ exec (.dvp y) t = .next u →
      u.mq.toNat % 2 ^ 35 = s.mq.toNat % 2 ^ 35 ∧ u.ac.toNat % 2 ^ 35 = 0 ∧
      ∀ f, u.readFlag f = s.readFlag f

/-! ### Bulk operations -/

/-- R221 CLEAR_CORE: every word becomes `+0`; registers and flags stay. The tag is the spec's own decision D11, that
any ignored field decodes to it its decision D12 (log entries 10 and 11). -/
def Obligations.ClearCoreZeroesEveryWord : Prop :=
  CompletesWithoutAddress 24#5 .clearCore fun s t =>
    (∀ a < s.coreSize, t.readWord a = 0#36) ∧ Frame [] [] (fun _ => True) s t

/-- R222 CLEAR_ARITH. The tag is the spec's own decision D11, that any ignored field decodes to it its decision D12
(log entries 10 and 11), SR's 36 bits its decision D9 (log entry 9). -/
def Obligations.ClearArithZeroesAcMqSr : Prop :=
  CompletesWithoutAddress 25#5 .clearArith fun s t =>
    t.ac = 0#38 ∧ t.mq = 0#36 ∧ t.sr = 0#36 ∧ Frame [.ac, .mq, .sr] [] noWord s t

/-- R223 CLEAR_PROG. The tag is the spec's own decision D11, that any ignored field decodes to it its decision D12
(log entries 10 and 11), the widths of SR, ILC and IR its decision D9 (log entry 9). -/
def Obligations.ClearProgZeroesProgramRegisters : Prop :=
  CompletesWithoutAddress 26#5 .clearProg fun s t =>
    t.ilc = 0#15 ∧ t.ir = 0#18 ∧ t.sr = 0#36 ∧ t.xr1 = 0#15 ∧ t.xr2 = 0#15 ∧ t.xr3 = 0#15 ∧
    Frame [.ilc, .ir, .sr, .xr1, .xr2, .xr3] [] noWord s t

/-- R224 CLEAR_ALL: the register file equals its reset state, flags and memory stay. The tag is the spec's own
decision D11, that any ignored field decodes to it its decision D12 (log entries 10 and 11), the widths of SR, ILC and
IR its decision D9 (log entry 9). -/
def Obligations.ClearAllZeroesRegisterFile : Prop :=
  CompletesWithoutAddress 27#5 .clearAll fun s t =>
    (∀ r, t.readRegister r = State.reset.readRegister r) ∧ (∀ r, (t.readRegister r).toNat = 0) ∧
    Frame [.ac, .mq, .sr, .xr1, .xr2, .xr3, .ilc, .ir] [] noWord s t

/-! ### Rules of the whole machine -/

/-- R32: no command ever clears a flag. -/
def Obligations.NoCommandClearsAFlag : Prop :=
  ∀ (i : Instr) (s t : State) (f : Flag),
    exec i s = .next t → s.readFlag f = true → t.readFlag f = true

/-- R31: the only flag writes of the instruction set. A flag that a command changes is `F.divide_check`, by DVH or DVP,
or `F.halt`, by DVH, and only when the divide-overflow condition `core[y].M <= AC.M` holds; and when it holds, DVH and
DVP do set them. -/
def Obligations.OnlyDivideOverflowWritesFlags : Prop :=
  (∀ (i : Instr) (s t : State) (f : Flag), exec i s = .next t → t.readFlag f ≠ s.readFlag f →
    ∃ y : Addr, (s.readWord y.toNat).toNat % 2 ^ 35 ≤ s.ac.toNat % 2 ^ 35 ∧ t.readFlag f = true ∧
      (f = .divideCheck ∧ (i = .dvh y ∨ i = .dvp y) ∨ f = .halt ∧ i = .dvh y)) ∧
  (∀ (y : Addr) (s t : State), (s.readWord y.toNat).toNat % 2 ^ 35 ≤ s.ac.toNat % 2 ^ 35 →
    (exec (.dvh y) s = .next t → t.readFlag .divideCheck = true ∧ t.readFlag .halt = true) ∧
    (exec (.dvp y) s = .next t → t.readFlag .divideCheck = true))

/-- R34: the engine reads no flag. Run in two states that differ in their flags alone, a command ends the same way:
with the same violation, or in states that again differ in their flags alone, the same flags having been set in both. -/
def Obligations.EngineReadsNoFlag : Prop :=
  ∀ (i : Instr) (s : State) (b : FlagBank),
    match exec i s, exec i { s with flags := b } with
    | .next t, .next t' =>
      t' = { t with flags := t'.flags } ∧
      ∃ written : List Flag,
        (∀ f, t.readFlag f = (s.readFlag f || decide (f ∈ written))) ∧
        (∀ f, t'.readFlag f = (b.read f || decide (f ∈ written)))
    | .fault e, .fault e' => e = e'
    | _, _ => False

/-- R23 to R26: no command reads SR, an index register, ILC or IR. Written to another value first, such a register
changes no command's outcome in anything but, at most, that register itself. -/
def Obligations.EngineReadsNoStorageRegister : Prop :=
  ∀ (i : Instr) (s : State) (r : Register) (v : BitVec r.width), r ≠ .ac → r ≠ .mq →
    match exec i s, exec i (s.writeRegister r v) with
    | .next t, .next t' => Frame [r] [] noWord t t'
    | .fault e, .fault e' => e = e'
    | _, _ => False

/-- R23 to R26: which commands can write SR, the index registers, ILC and IR. -/
def Obligations.StorageRegistersWrittenByClearsOnly : Prop :=
  ∀ (i : Instr) (s t : State), exec i s = .next t →
    (t.sr ≠ s.sr → i = .clearArith ∨ i = .clearProg ∨ i = .clearAll) ∧
    (∀ r : Register, r = .xr1 ∨ r = .xr2 ∨ r = .xr3 ∨ r = .ilc ∨ r = .ir →
      t.readRegister r ≠ s.readRegister r → i = .clearProg ∨ i = .clearAll)

/-- The writing half of R66: a core word that a command changes is the word at the command's own address, the command
being one of the six stores, or the command is CLEAR_CORE. -/
def Obligations.MemoryChangedByStoresOnly : Prop :=
  ∀ (i : Instr) (s t : State) (a : Nat), exec i s = .next t → t.readWord a ≠ s.readWord a →
    i = .clearCore ∨
    ∃ y : Addr, a = y.toNat ∧
      (i = .sto y ∨ i = .stq y ∨ i = .slq y ∨ i = .stp y ∨ i = .std y ∨ i = .sta y)

/-- 00_scope R7, 10_state R37: no step changes `CORE_SIZE` or `verbose`. For `rst`, where 46_bulk_and_host R230 lets
the caller choose both, that they stay is the model's choice (log entry 14); that the two stand in `State` is its
choice too (log entries 4 and 5). -/
def Obligations.ConstructionParametersAreFixed : Prop :=
  ∀ s t : State, step s = .next t → t.coreSize = s.coreSize ∧ t.verbose = s.verbose
end

