-- ==== Sys2Proof/Laws/Decode.lean ====
section
/-!
SUPPORT. The two fields of a command word: what they are in `{tag, y}`, as integers, and that a word is its two fields;
and the decoder on a word given by its fields (30_encoding R92).
-/

namespace Sys2Proof

@[simp] theorem tagField_append (t : Tag) (y : Addr) : tagField (t ++ y) = t := by
  apply BitVec.eq_of_getLsbD_eq
  intro k hk
  rw [tagField, BitVec.getLsbD_extractLsb, BitVec.getLsbD_append]
  simp
  exact fun _ => hk

@[simp] theorem addrField_append (t : Tag) (y : Addr) : addrField (t ++ y) = y := by
  apply BitVec.eq_of_getLsbD_eq
  intro k hk
  rw [addrField, BitVec.getLsbD_extractLsb, BitVec.getLsbD_append]
  simp [hk]

theorem tagField_toNat (w : Command) : (tagField w).toNat = w.toNat / 2 ^ 15 := by
  have hw := w.isLt
  rw [tagField, BitVec.extractLsb_toNat, Nat.shiftRight_eq_div_pow]
  omega

theorem addrField_toNat (w : Command) : (addrField w).toNat = w.toNat % 2 ^ 15 := by
  rw [addrField, BitVec.extractLsb_toNat]
  simp

/-- A command word is its tag and its address field. -/
theorem append_fields (w : Command) : tagField w ++ addrField w = w := by
  apply BitVec.eq_of_toNat_eq
  rw [BitVec.toNat_append, ← Nat.shiftLeft_add_eq_or_of_lt (addrField w).isLt, tagField_toNat, addrField_toNat,
    Nat.shiftLeft_eq]
  exact Nat.div_add_mod' _ _

/-- The decoder on the word `{t, y}`. -/
theorem decode_append (t : Tag) (y : Addr) :
    decode (t ++ y) = match decodeTag t.toNat y with
      | some i => .ok i
      | none => .error (.unsupportedOpcode t) := by
  cases h : decodeTag t.toNat y <;> simp [decode, h]

/-- The mask of every row keeps the tag and drops the address field (30_encoding R92, R96). -/
theorem tag_of_masked (t : Tag) (y : Addr) : ((t ++ y : Command) &&& 0xF8000#20) = t ++ 0#15 := by
  apply BitVec.eq_of_getLsbD_eq
  intro k hk
  rw [BitVec.getLsbD_and, BitVec.getLsbD_append, BitVec.getLsbD_append]
  interval_cases k <;> simp

end Sys2Proof
end

