-- ==== Sys2Proof/Laws/Flags.lean ====
section
/-!
SUPPORT. The flag bank: a flag that was written reads as written, and no other flag changes (10_state R30).
-/

namespace Sys2Proof.Machine

@[simp] theorem FlagBank.read_write_same (b : FlagBank) (f : Flag) (v : Bool) : (b.write f v).read f = v := by
  cases f <;> rfl

theorem FlagBank.read_write_other (b : FlagBank) {f g : Flag} (v : Bool) (h : g ≠ f) :
    (b.write f v).read g = b.read g := by
  cases f <;> cases g <;> first | rfl | exact absurd rfl h

/-- Everything the report of a divide overflow does, flag by flag (45_multiply_divide R205). -/
theorem divideOverflowFlags_read (b : FlagBank) (halts : Bool) (f : Flag) :
    (divideOverflowFlags b halts).read f =
      (b.read f || decide (f = .divideCheck) || (halts && decide (f = .halt))) := by
  cases halts <;> cases f <;> simp [divideOverflowFlags, FlagBank.read, FlagBank.write]

@[simp] theorem FlagBank.cleared_read (f : Flag) : FlagBank.cleared.read f = false := by
  cases f <;> rfl

end Sys2Proof.Machine
end

