-- ==== Sys2Proof/Laws/State.lean ====
section
/-!
SUPPORT. What each update of the state does to each field: one lemma per field per update, true by definition, so that
no later proof unfolds a record update.
-/

namespace Sys2Proof.Machine

/-! ### setAc -/

@[simp] theorem State.setAc_ac (s : State) (v : AcWord) : (s.setAc v).ac = v := rfl
@[simp] theorem State.setAc_mq (s : State) (v : AcWord) : (s.setAc v).mq = s.mq := rfl
@[simp] theorem State.setAc_sr (s : State) (v : AcWord) : (s.setAc v).sr = s.sr := rfl
@[simp] theorem State.setAc_xr1 (s : State) (v : AcWord) : (s.setAc v).xr1 = s.xr1 := rfl
@[simp] theorem State.setAc_xr2 (s : State) (v : AcWord) : (s.setAc v).xr2 = s.xr2 := rfl
@[simp] theorem State.setAc_xr3 (s : State) (v : AcWord) : (s.setAc v).xr3 = s.xr3 := rfl
@[simp] theorem State.setAc_ilc (s : State) (v : AcWord) : (s.setAc v).ilc = s.ilc := rfl
@[simp] theorem State.setAc_ir (s : State) (v : AcWord) : (s.setAc v).ir = s.ir := rfl
@[simp] theorem State.setAc_flags (s : State) (v : AcWord) : (s.setAc v).flags = s.flags := rfl
@[simp] theorem State.setAc_core (s : State) (v : AcWord) : (s.setAc v).core = s.core := rfl
@[simp] theorem State.setAc_coreSize (s : State) (v : AcWord) : (s.setAc v).coreSize = s.coreSize := rfl
@[simp] theorem State.setAc_verbose (s : State) (v : AcWord) : (s.setAc v).verbose = s.verbose := rfl
@[simp] theorem State.setAc_inputs (s : State) (v : AcWord) : (s.setAc v).inputs = s.inputs := rfl

/-! ### setMq -/

@[simp] theorem State.setMq_ac (s : State) (v : Word36) : (s.setMq v).ac = s.ac := rfl
@[simp] theorem State.setMq_mq (s : State) (v : Word36) : (s.setMq v).mq = v := rfl
@[simp] theorem State.setMq_sr (s : State) (v : Word36) : (s.setMq v).sr = s.sr := rfl
@[simp] theorem State.setMq_xr1 (s : State) (v : Word36) : (s.setMq v).xr1 = s.xr1 := rfl
@[simp] theorem State.setMq_xr2 (s : State) (v : Word36) : (s.setMq v).xr2 = s.xr2 := rfl
@[simp] theorem State.setMq_xr3 (s : State) (v : Word36) : (s.setMq v).xr3 = s.xr3 := rfl
@[simp] theorem State.setMq_ilc (s : State) (v : Word36) : (s.setMq v).ilc = s.ilc := rfl
@[simp] theorem State.setMq_ir (s : State) (v : Word36) : (s.setMq v).ir = s.ir := rfl
@[simp] theorem State.setMq_flags (s : State) (v : Word36) : (s.setMq v).flags = s.flags := rfl
@[simp] theorem State.setMq_core (s : State) (v : Word36) : (s.setMq v).core = s.core := rfl
@[simp] theorem State.setMq_coreSize (s : State) (v : Word36) : (s.setMq v).coreSize = s.coreSize := rfl
@[simp] theorem State.setMq_verbose (s : State) (v : Word36) : (s.setMq v).verbose = s.verbose := rfl
@[simp] theorem State.setMq_inputs (s : State) (v : Word36) : (s.setMq v).inputs = s.inputs := rfl

/-! ### setFlags -/

@[simp] theorem State.setFlags_ac (s : State) (b : FlagBank) : (s.setFlags b).ac = s.ac := rfl
@[simp] theorem State.setFlags_mq (s : State) (b : FlagBank) : (s.setFlags b).mq = s.mq := rfl
@[simp] theorem State.setFlags_sr (s : State) (b : FlagBank) : (s.setFlags b).sr = s.sr := rfl
@[simp] theorem State.setFlags_xr1 (s : State) (b : FlagBank) : (s.setFlags b).xr1 = s.xr1 := rfl
@[simp] theorem State.setFlags_xr2 (s : State) (b : FlagBank) : (s.setFlags b).xr2 = s.xr2 := rfl
@[simp] theorem State.setFlags_xr3 (s : State) (b : FlagBank) : (s.setFlags b).xr3 = s.xr3 := rfl
@[simp] theorem State.setFlags_ilc (s : State) (b : FlagBank) : (s.setFlags b).ilc = s.ilc := rfl
@[simp] theorem State.setFlags_ir (s : State) (b : FlagBank) : (s.setFlags b).ir = s.ir := rfl
@[simp] theorem State.setFlags_flags (s : State) (b : FlagBank) : (s.setFlags b).flags = b := rfl
@[simp] theorem State.setFlags_core (s : State) (b : FlagBank) : (s.setFlags b).core = s.core := rfl
@[simp] theorem State.setFlags_coreSize (s : State) (b : FlagBank) : (s.setFlags b).coreSize = s.coreSize := rfl
@[simp] theorem State.setFlags_verbose (s : State) (b : FlagBank) : (s.setFlags b).verbose = s.verbose := rfl
@[simp] theorem State.setFlags_inputs (s : State) (b : FlagBank) : (s.setFlags b).inputs = s.inputs := rfl

/-! ### setCore -/

@[simp] theorem State.setCore_ac (s : State) (m : Memory) : (s.setCore m).ac = s.ac := rfl
@[simp] theorem State.setCore_mq (s : State) (m : Memory) : (s.setCore m).mq = s.mq := rfl
@[simp] theorem State.setCore_sr (s : State) (m : Memory) : (s.setCore m).sr = s.sr := rfl
@[simp] theorem State.setCore_xr1 (s : State) (m : Memory) : (s.setCore m).xr1 = s.xr1 := rfl
@[simp] theorem State.setCore_xr2 (s : State) (m : Memory) : (s.setCore m).xr2 = s.xr2 := rfl
@[simp] theorem State.setCore_xr3 (s : State) (m : Memory) : (s.setCore m).xr3 = s.xr3 := rfl
@[simp] theorem State.setCore_ilc (s : State) (m : Memory) : (s.setCore m).ilc = s.ilc := rfl
@[simp] theorem State.setCore_ir (s : State) (m : Memory) : (s.setCore m).ir = s.ir := rfl
@[simp] theorem State.setCore_flags (s : State) (m : Memory) : (s.setCore m).flags = s.flags := rfl
@[simp] theorem State.setCore_core (s : State) (m : Memory) : (s.setCore m).core = m := rfl
@[simp] theorem State.setCore_coreSize (s : State) (m : Memory) : (s.setCore m).coreSize = s.coreSize := rfl
@[simp] theorem State.setCore_verbose (s : State) (m : Memory) : (s.setCore m).verbose = s.verbose := rfl
@[simp] theorem State.setCore_inputs (s : State) (m : Memory) : (s.setCore m).inputs = s.inputs := rfl

/-! ### setInputs -/

@[simp] theorem State.setInputs_ac (s : State) (l : List Input) : (s.setInputs l).ac = s.ac := rfl
@[simp] theorem State.setInputs_mq (s : State) (l : List Input) : (s.setInputs l).mq = s.mq := rfl
@[simp] theorem State.setInputs_sr (s : State) (l : List Input) : (s.setInputs l).sr = s.sr := rfl
@[simp] theorem State.setInputs_xr1 (s : State) (l : List Input) : (s.setInputs l).xr1 = s.xr1 := rfl
@[simp] theorem State.setInputs_xr2 (s : State) (l : List Input) : (s.setInputs l).xr2 = s.xr2 := rfl
@[simp] theorem State.setInputs_xr3 (s : State) (l : List Input) : (s.setInputs l).xr3 = s.xr3 := rfl
@[simp] theorem State.setInputs_ilc (s : State) (l : List Input) : (s.setInputs l).ilc = s.ilc := rfl
@[simp] theorem State.setInputs_ir (s : State) (l : List Input) : (s.setInputs l).ir = s.ir := rfl
@[simp] theorem State.setInputs_flags (s : State) (l : List Input) : (s.setInputs l).flags = s.flags := rfl
@[simp] theorem State.setInputs_core (s : State) (l : List Input) : (s.setInputs l).core = s.core := rfl
@[simp] theorem State.setInputs_coreSize (s : State) (l : List Input) : (s.setInputs l).coreSize = s.coreSize := rfl
@[simp] theorem State.setInputs_verbose (s : State) (l : List Input) : (s.setInputs l).verbose = s.verbose := rfl
@[simp] theorem State.setInputs_inputs (s : State) (l : List Input) : (s.setInputs l).inputs = l := rfl

/-! ### writeWord -/

@[simp] theorem State.writeWord_ac (s : State) (a : Nat) (v : Word36) : (s.writeWord a v).ac = s.ac := rfl
@[simp] theorem State.writeWord_mq (s : State) (a : Nat) (v : Word36) : (s.writeWord a v).mq = s.mq := rfl
@[simp] theorem State.writeWord_sr (s : State) (a : Nat) (v : Word36) : (s.writeWord a v).sr = s.sr := rfl
@[simp] theorem State.writeWord_xr1 (s : State) (a : Nat) (v : Word36) : (s.writeWord a v).xr1 = s.xr1 := rfl
@[simp] theorem State.writeWord_xr2 (s : State) (a : Nat) (v : Word36) : (s.writeWord a v).xr2 = s.xr2 := rfl
@[simp] theorem State.writeWord_xr3 (s : State) (a : Nat) (v : Word36) : (s.writeWord a v).xr3 = s.xr3 := rfl
@[simp] theorem State.writeWord_ilc (s : State) (a : Nat) (v : Word36) : (s.writeWord a v).ilc = s.ilc := rfl
@[simp] theorem State.writeWord_ir (s : State) (a : Nat) (v : Word36) : (s.writeWord a v).ir = s.ir := rfl
@[simp] theorem State.writeWord_flags (s : State) (a : Nat) (v : Word36) : (s.writeWord a v).flags = s.flags := rfl
@[simp] theorem State.writeWord_core (s : State) (a : Nat) (v : Word36) : (s.writeWord a v).core = Memory.write s.core a v := rfl
@[simp] theorem State.writeWord_coreSize (s : State) (a : Nat) (v : Word36) : (s.writeWord a v).coreSize = s.coreSize := rfl
@[simp] theorem State.writeWord_verbose (s : State) (a : Nat) (v : Word36) : (s.writeWord a v).verbose = s.verbose := rfl
@[simp] theorem State.writeWord_inputs (s : State) (a : Nat) (v : Word36) : (s.writeWord a v).inputs = s.inputs := rfl

/-! ### clearArithRegisters -/

@[simp] theorem clearArithRegisters_ac (s : State) : (clearArithRegisters s).ac = 0#38 := rfl
@[simp] theorem clearArithRegisters_mq (s : State) : (clearArithRegisters s).mq = 0#36 := rfl
@[simp] theorem clearArithRegisters_sr (s : State) : (clearArithRegisters s).sr = 0#36 := rfl
@[simp] theorem clearArithRegisters_xr1 (s : State) : (clearArithRegisters s).xr1 = s.xr1 := rfl
@[simp] theorem clearArithRegisters_xr2 (s : State) : (clearArithRegisters s).xr2 = s.xr2 := rfl
@[simp] theorem clearArithRegisters_xr3 (s : State) : (clearArithRegisters s).xr3 = s.xr3 := rfl
@[simp] theorem clearArithRegisters_ilc (s : State) : (clearArithRegisters s).ilc = s.ilc := rfl
@[simp] theorem clearArithRegisters_ir (s : State) : (clearArithRegisters s).ir = s.ir := rfl
@[simp] theorem clearArithRegisters_flags (s : State) : (clearArithRegisters s).flags = s.flags := rfl
@[simp] theorem clearArithRegisters_core (s : State) : (clearArithRegisters s).core = s.core := rfl
@[simp] theorem clearArithRegisters_coreSize (s : State) : (clearArithRegisters s).coreSize = s.coreSize := rfl
@[simp] theorem clearArithRegisters_verbose (s : State) : (clearArithRegisters s).verbose = s.verbose := rfl
@[simp] theorem clearArithRegisters_inputs (s : State) : (clearArithRegisters s).inputs = s.inputs := rfl

/-! ### clearProgRegisters -/

@[simp] theorem clearProgRegisters_ac (s : State) : (clearProgRegisters s).ac = s.ac := rfl
@[simp] theorem clearProgRegisters_mq (s : State) : (clearProgRegisters s).mq = s.mq := rfl
@[simp] theorem clearProgRegisters_sr (s : State) : (clearProgRegisters s).sr = 0#36 := rfl
@[simp] theorem clearProgRegisters_xr1 (s : State) : (clearProgRegisters s).xr1 = 0#15 := rfl
@[simp] theorem clearProgRegisters_xr2 (s : State) : (clearProgRegisters s).xr2 = 0#15 := rfl
@[simp] theorem clearProgRegisters_xr3 (s : State) : (clearProgRegisters s).xr3 = 0#15 := rfl
@[simp] theorem clearProgRegisters_ilc (s : State) : (clearProgRegisters s).ilc = 0#15 := rfl
@[simp] theorem clearProgRegisters_ir (s : State) : (clearProgRegisters s).ir = 0#18 := rfl
@[simp] theorem clearProgRegisters_flags (s : State) : (clearProgRegisters s).flags = s.flags := rfl
@[simp] theorem clearProgRegisters_core (s : State) : (clearProgRegisters s).core = s.core := rfl
@[simp] theorem clearProgRegisters_coreSize (s : State) : (clearProgRegisters s).coreSize = s.coreSize := rfl
@[simp] theorem clearProgRegisters_verbose (s : State) : (clearProgRegisters s).verbose = s.verbose := rfl
@[simp] theorem clearProgRegisters_inputs (s : State) : (clearProgRegisters s).inputs = s.inputs := rfl

/-! ### State.hostReset -/

@[simp] theorem State.hostReset_ac (s : State) : (State.hostReset s).ac = 0#38 := rfl
@[simp] theorem State.hostReset_mq (s : State) : (State.hostReset s).mq = 0#36 := rfl
@[simp] theorem State.hostReset_sr (s : State) : (State.hostReset s).sr = 0#36 := rfl
@[simp] theorem State.hostReset_xr1 (s : State) : (State.hostReset s).xr1 = 0#15 := rfl
@[simp] theorem State.hostReset_xr2 (s : State) : (State.hostReset s).xr2 = 0#15 := rfl
@[simp] theorem State.hostReset_xr3 (s : State) : (State.hostReset s).xr3 = 0#15 := rfl
@[simp] theorem State.hostReset_ilc (s : State) : (State.hostReset s).ilc = 0#15 := rfl
@[simp] theorem State.hostReset_ir (s : State) : (State.hostReset s).ir = 0#18 := rfl
@[simp] theorem State.hostReset_flags (s : State) : (State.hostReset s).flags = FlagBank.cleared := rfl
@[simp] theorem State.hostReset_core (s : State) : (State.hostReset s).core = s.core := rfl
@[simp] theorem State.hostReset_coreSize (s : State) : (State.hostReset s).coreSize = s.coreSize := rfl
@[simp] theorem State.hostReset_verbose (s : State) : (State.hostReset s).verbose = s.verbose := rfl
@[simp] theorem State.hostReset_inputs (s : State) : (State.hostReset s).inputs = s.inputs := rfl

/-! ### the state after reset -/

@[simp] theorem State.reset_ac : State.reset.ac = 0#38 := rfl
@[simp] theorem State.reset_mq : State.reset.mq = 0#36 := rfl
@[simp] theorem State.reset_sr : State.reset.sr = 0#36 := rfl
@[simp] theorem State.reset_xr1 : State.reset.xr1 = 0#15 := rfl
@[simp] theorem State.reset_xr2 : State.reset.xr2 = 0#15 := rfl
@[simp] theorem State.reset_xr3 : State.reset.xr3 = 0#15 := rfl
@[simp] theorem State.reset_ilc : State.reset.ilc = 0#15 := rfl
@[simp] theorem State.reset_ir : State.reset.ir = 0#18 := rfl
@[simp] theorem State.reset_flags : State.reset.flags = FlagBank.cleared := rfl
@[simp] theorem State.reset_core : State.reset.core = [] := rfl
@[simp] theorem State.reset_coreSize : State.reset.coreSize = 8192 := rfl
@[simp] theorem State.reset_verbose : State.reset.verbose = false := rfl
@[simp] theorem State.reset_inputs : State.reset.inputs = [] := rfl

/-! ### registers by name -/

/-- A register that was written reads as written. -/
@[simp] theorem State.readRegister_writeRegister_same (s : State) (r : Register) (v : BitVec r.width) :
    (s.writeRegister r v).readRegister r = v := by
  cases r <;> rfl

/-- A write to one register leaves every other (10_state R20). -/
theorem State.readRegister_writeRegister_other (s : State) {r r' : Register} (v : BitVec r.width) (h : r' ≠ r) :
    (s.writeRegister r v).readRegister r' = s.readRegister r' := by
  cases r <;> cases r' <;> first | rfl | exact absurd rfl h

@[simp] theorem State.writeRegister_flags (s : State) (r : Register) (v : BitVec r.width) :
    (s.writeRegister r v).flags = s.flags := by cases r <;> rfl
@[simp] theorem State.writeRegister_core (s : State) (r : Register) (v : BitVec r.width) :
    (s.writeRegister r v).core = s.core := by cases r <;> rfl
@[simp] theorem State.writeRegister_coreSize (s : State) (r : Register) (v : BitVec r.width) :
    (s.writeRegister r v).coreSize = s.coreSize := by cases r <;> rfl
@[simp] theorem State.writeRegister_verbose (s : State) (r : Register) (v : BitVec r.width) :
    (s.writeRegister r v).verbose = s.verbose := by cases r <;> rfl
@[simp] theorem State.writeRegister_inputs (s : State) (r : Register) (v : BitVec r.width) :
    (s.writeRegister r v).inputs = s.inputs := by cases r <;> rfl

/-! ### what the caller reads, after an update -/

@[simp] theorem State.readFlag_setAc (s : State) (v : AcWord) (f : Flag) : (s.setAc v).readFlag f = s.readFlag f := rfl
@[simp] theorem State.readFlag_setMq (s : State) (v : Word36) (f : Flag) : (s.setMq v).readFlag f = s.readFlag f := rfl
@[simp] theorem State.readFlag_setCore (s : State) (m : Memory) (f : Flag) :
    (s.setCore m).readFlag f = s.readFlag f := rfl
@[simp] theorem State.readFlag_writeWord (s : State) (a : Nat) (v : Word36) (f : Flag) :
    (s.writeWord a v).readFlag f = s.readFlag f := rfl
@[simp] theorem State.readFlag_setFlags (s : State) (b : FlagBank) (f : Flag) :
    (s.setFlags b).readFlag f = b.read f := rfl
@[simp] theorem State.readWord_setAc (s : State) (v : AcWord) (a : Nat) : (s.setAc v).readWord a = s.readWord a := rfl
@[simp] theorem State.readWord_setMq (s : State) (v : Word36) (a : Nat) : (s.setMq v).readWord a = s.readWord a := rfl
@[simp] theorem State.readWord_setFlags (s : State) (b : FlagBank) (a : Nat) :
    (s.setFlags b).readWord a = s.readWord a := rfl

end Sys2Proof.Machine
end

