-- ==== Sys2Proof/Laws/Operands.lean ====
section
/-!
SUPPORT. The fields of words and of the accumulator as bits and as integers, the raw arithmetic as integers modulo
2^38, and what the shared multiply and divide leave in each register.
-/

namespace Sys2Proof.Machine

/-! ### Field reads -/

theorem wordSign_eq (w : Word36) : wordSign w = w.getLsbD 35 := rfl
theorem acSign_eq (a : AcWord) : acSign a = a.getLsbD 37 := rfl
theorem acP_eq (a : AcWord) : acP a = a.getLsbD 36 := rfl
theorem acQ_eq (a : AcWord) : acQ a = a.getLsbD 35 := rfl

@[simp] theorem wordMag_toNat (w : Word36) : (wordMag w).toNat = w.toNat % 2 ^ 35 := by
  simp [wordMag, BitVec.extractLsb]

@[simp] theorem acMag_toNat (a : AcWord) : (acMag a).toNat = a.toNat % 2 ^ 35 := by
  simp [acMag, BitVec.extractLsb]

@[simp] theorem acLow_toNat (a : AcWord) : (acLow a).toNat = a.toNat % 2 ^ 36 := by
  simp [acLow, BitVec.extractLsb]

/-! ### Field writes -/

theorem packWord_toNat (s : Bool) (m : Magnitude) :
    (packWord s m).toNat = (if s then 2 ^ 35 else 0) + m.toNat := by
  rw [packWord, BitVec.toNat_append, ← Nat.shiftLeft_add_eq_or_of_lt m.isLt]
  cases s <;> simp [Nat.shiftLeft_eq]

theorem packAc_toNat (s p q : Bool) (m : Magnitude) :
    (packAc s p q m).toNat =
      (if s then 2 ^ 37 else 0) + (if p then 2 ^ 36 else 0) + (if q then 2 ^ 35 else 0) + m.toNat := by
  have h1 : (BitVec.ofBool q ++ m).toNat = (if q then 2 ^ 35 else 0) + m.toNat := packWord_toNat q m
  have hm := m.isLt
  have h2 : (BitVec.ofBool p ++ (BitVec.ofBool q ++ m)).toNat =
      (if p then 2 ^ 36 else 0) + ((if q then 2 ^ 35 else 0) + m.toNat) := by
    rw [BitVec.toNat_append, h1, ← Nat.shiftLeft_add_eq_or_of_lt (by split <;> omega)]
    cases p <;> simp [Nat.shiftLeft_eq]
  rw [packAc, BitVec.toNat_append, h2, ← Nat.shiftLeft_add_eq_or_of_lt (by split <;> split <;> omega)]
  cases s <;> simp [Nat.shiftLeft_eq] <;> omega

/-- The bits of the word `{s, m}`. -/
theorem packWord_getLsbD (s : Bool) (m : Magnitude) (k : Nat) :
    (packWord s m).getLsbD k = if k < 35 then m.getLsbD k else if k = 35 then s else false := by
  rw [packWord, BitVec.getLsbD_append]
  by_cases h : k < 35
  · simp [h]
  · by_cases h' : k = 35
    · simp [h']
    · simp [h, h', show k - 35 ≠ 0 by omega]

/-- The bits of the accumulator `{s, p, q, m}`. -/
theorem packAc_getLsbD (s p q : Bool) (m : Magnitude) (k : Nat) :
    (packAc s p q m).getLsbD k =
      if k < 35 then m.getLsbD k
      else if k = 35 then q else if k = 36 then p else if k = 37 then s else false := by
  have h1 := packWord_getLsbD q m
  simp only [packWord] at h1
  rw [packAc, BitVec.getLsbD_append, BitVec.getLsbD_append, h1]
  by_cases h : k < 35
  · simp [h, show k < 37 by omega, show k < 36 by omega]
  · rcases Nat.lt_or_ge k 38 with hk | hk
    · interval_cases k <;> simp_all
    · simp [show ¬ k < 37 by omega, show k - 37 ≠ 0 by omega, h, show k ≠ 35 by omega, show k ≠ 36 by omega,
        show k ≠ 37 by omega]

@[simp] theorem wordSign_packWord (s : Bool) (m : Magnitude) : wordSign (packWord s m) = s := by
  rw [wordSign_eq, packWord_getLsbD]; rfl

@[simp] theorem wordMag_packWord (s : Bool) (m : Magnitude) : wordMag (packWord s m) = m := by
  apply BitVec.eq_of_toNat_eq
  have hm := m.isLt
  rw [wordMag_toNat, packWord_toNat]
  cases s <;> simp <;> omega

@[simp] theorem acSign_packAc (s p q : Bool) (m : Magnitude) : acSign (packAc s p q m) = s := by
  rw [acSign_eq, packAc_getLsbD]; rfl

@[simp] theorem acP_packAc (s p q : Bool) (m : Magnitude) : acP (packAc s p q m) = p := by
  rw [acP_eq, packAc_getLsbD]; rfl

@[simp] theorem acQ_packAc (s p q : Bool) (m : Magnitude) : acQ (packAc s p q m) = q := by
  rw [acQ_eq, packAc_getLsbD]; rfl

@[simp] theorem acMag_packAc (s p q : Bool) (m : Magnitude) : acMag (packAc s p q m) = m := by
  apply BitVec.eq_of_toNat_eq
  have hm := m.isLt
  rw [acMag_toNat, packAc_toNat]
  cases s <;> cases p <;> cases q <;> simp <;> omega

/-! ### The accessors of 40_bitfield_and_codec R125 -/

@[simp] theorem wordSign_wordWithSign (w : Word36) (b : Bool) : wordSign (wordWithSign w b) = b := by
  simp [wordWithSign]

@[simp] theorem wordMag_wordWithSign (w : Word36) (b : Bool) : wordMag (wordWithSign w b) = wordMag w := by
  simp [wordWithSign]

@[simp] theorem wordSign_wordWithMag (w : Word36) (m : Magnitude) : wordSign (wordWithMag w m) = wordSign w := by
  simp [wordWithMag]

@[simp] theorem wordMag_wordWithMag (w : Word36) (m : Magnitude) : wordMag (wordWithMag w m) = m := by
  simp [wordWithMag]

/-! ### Raw arithmetic (44_add_subtract R180) -/

theorem rawAdd_toNat {n : Nat} (hn : n ≤ 38) (a : AcWord) (x : BitVec n) :
    (rawAdd a x).toNat = (a.toNat + x.toNat) % 2 ^ 38 := by
  have hx : x.toNat < 2 ^ 38 := x.isLt.trans_le (Nat.pow_le_pow_right (by norm_num) hn)
  rw [rawAdd, BitVec.toNat_add, BitVec.toNat_setWidth, Nat.mod_eq_of_lt hx]

theorem rawSub_toNat {n : Nat} (hn : n ≤ 38) (a : AcWord) (x : BitVec n) :
    ((rawSub a x).toNat : Int) = ((a.toNat : Int) - x.toNat) % 2 ^ 38 := by
  have hx : x.toNat < 2 ^ 38 := x.isLt.trans_le (Nat.pow_le_pow_right (by norm_num) hn)
  rw [rawSub, BitVec.toNat_sub, BitVec.toNat_setWidth, Nat.mod_eq_of_lt hx]
  have ha := a.isLt
  omega

/-- A raw subtraction undoes a raw addition of the same integer, on all 38 bits. -/
theorem rawSub_rawAdd {n m : Nat} (a : AcWord) (x : BitVec n) (y : BitVec m)
    (h : x.toNat = y.toNat) : rawSub (rawAdd a x) y = a := by
  have he : x.setWidth 38 = y.setWidth 38 := by
    apply BitVec.eq_of_toNat_eq
    simp [BitVec.toNat_setWidth, h]
  rw [rawSub, rawAdd, he, BitVec.add_sub_cancel]

/-- A raw addition undoes a raw subtraction of the same integer, on all 38 bits. -/
theorem rawAdd_rawSub {n m : Nat} (a : AcWord) (x : BitVec n) (y : BitVec m)
    (h : x.toNat = y.toNat) : rawAdd (rawSub a x) y = a := by
  have he : x.setWidth 38 = y.setWidth 38 := by
    apply BitVec.eq_of_toNat_eq
    simp [BitVec.toNat_setWidth, h]
  rw [rawSub, rawAdd, he, BitVec.sub_add_cancel]

/-! ### Multiply and divide -/

/-- Everything the shared divide can do: set flags and nothing else, or write MQ and AC and nothing else
(45_multiply_divide R205). -/
theorem divide_cases (halts : Bool) (w : Word36) (s : State) :
    (w.toNat % 2 ^ 35 ≤ s.ac.toNat % 2 ^ 35 ∧
      divide halts w s = s.setFlags (divideOverflowFlags s.flags halts)) ∨
    (s.ac.toNat % 2 ^ 35 < w.toNat % 2 ^ 35 ∧ ∃ q r : Magnitude,
      divide halts w s =
        (s.setMq (packWord (acSign s.ac ^^ wordSign w) q)).setAc
          (packAc (acSign s.ac ^^ wordSign w) false false r)) := by
  by_cases h : w.toNat % 2 ^ 35 ≤ s.ac.toNat % 2 ^ 35
  · exact .inl ⟨h, by simp only [divide, wordMag_toNat, acMag_toNat, if_pos h]⟩
  · exact .inr ⟨Nat.lt_of_not_le h, _, _, by simp only [divide, wordMag_toNat, acMag_toNat, if_neg h]; rfl⟩

@[simp] theorem divide_core (halts : Bool) (w : Word36) (s : State) : (divide halts w s).core = s.core := by
  rcases divide_cases halts w s with ⟨-, h⟩ | ⟨-, q, r, h⟩ <;> simp [h]

@[simp] theorem divide_coreSize (halts : Bool) (w : Word36) (s : State) :
    (divide halts w s).coreSize = s.coreSize := by
  rcases divide_cases halts w s with ⟨-, h⟩ | ⟨-, q, r, h⟩ <;> simp [h]

@[simp] theorem multiply_ac (w : Word36) (s : State) :
    (multiply w s).ac = packAc (wordSign w ^^ wordSign s.mq) false false
      (BitVec.ofNat 35 ((wordMag w).toNat * (wordMag s.mq).toNat / 2 ^ 35)) := rfl

@[simp] theorem multiply_mq (w : Word36) (s : State) :
    (multiply w s).mq = packWord (wordSign w ^^ wordSign s.mq)
      (BitVec.ofNat 35 ((wordMag w).toNat * (wordMag s.mq).toNat % 2 ^ 35)) := rfl

@[simp] theorem multiply_flags (w : Word36) (s : State) : (multiply w s).flags = s.flags := rfl
@[simp] theorem multiply_core (w : Word36) (s : State) : (multiply w s).core = s.core := rfl
@[simp] theorem multiply_coreSize (w : Word36) (s : State) : (multiply w s).coreSize = s.coreSize := rfl

end Sys2Proof.Machine
end

