-- ==== Sys2Proof/Laws/Memory.lean ====
section
/-!
SUPPORT. Core memory: a read after a write, the words a write leaves alone, and that every memory operation keeps the
canonical form.
-/

namespace Sys2Proof.Machine

/-! ### Reading after writing -/

theorem Memory.find_write_same (m : Memory) (a : Nat) (v : Word36) :
    Memory.find (Memory.write m a v) a = some v := by
  induction m with
  | nil => simp [Memory.write, Memory.find]
  | cons c rest ih =>
    obtain ⟨b, w⟩ := c
    rcases Nat.lt_trichotomy a b with h | h | h
    · simp [Memory.write, Memory.find, h]
    · simp [Memory.write, Memory.find, h]
    · simpa [Memory.write, Memory.find, Nat.not_lt.2 h.le, (Nat.ne_of_lt h).symm] using ih

theorem Memory.find_write_other (m : Memory) {a a' : Nat} (v : Word36) (h : a' ≠ a) :
    Memory.find (Memory.write m a v) a' = Memory.find m a' := by
  induction m with
  | nil => simp [Memory.write, Memory.find, h]
  | cons c rest ih =>
    obtain ⟨b, w⟩ := c
    rcases Nat.lt_trichotomy a b with hb | hb | hb
    · simp [Memory.write, Memory.find, hb, h]
    · subst hb
      simp [Memory.write, Memory.find, h]
    · by_cases hab : a' = b
      · simp [Memory.write, Memory.find, Nat.not_lt.2 hb.le, (Nat.ne_of_lt hb).symm, hab]
      · simpa [Memory.write, Memory.find, Nat.not_lt.2 hb.le, (Nat.ne_of_lt hb).symm, hab] using ih

/-- "A later read returns it" (20_memory R67). -/
@[simp] theorem Memory.read_write_same (m : Memory) (a : Nat) (v : Word36) :
    Memory.read (Memory.write m a v) a = v := by
  simp [Memory.read, Memory.find_write_same]

/-- A write leaves every other word alone. -/
theorem Memory.read_write_other (m : Memory) {a a' : Nat} (v : Word36) (h : a' ≠ a) :
    Memory.read (Memory.write m a v) a' = Memory.read m a' := by
  simp [Memory.read, Memory.find_write_other m v h]

@[simp] theorem Memory.read_nil (a : Nat) : Memory.read [] a = Config.powerOnWord a := rfl

theorem Memory.find_zeros (count : Nat) : ∀ first a, first ≤ a → a < first + count →
    Memory.find (Memory.zeros first count) a = some 0#36 := by
  induction count with
  | zero => intro first a h1 h2; omega
  | succ n ih =>
    intro first a h1 h2
    by_cases h : a = first
    · simp [Memory.zeros, Memory.find, h]
    · simpa [Memory.zeros, Memory.find, h] using ih (first + 1) a (by omega) (by omega)

/-- After a clear of the whole memory every valid word reads `+0`. -/
theorem Memory.read_zeros {size a : Nat} (h : a < size) : Memory.read (Memory.zeros 0 size) a = 0#36 := by
  simp [Memory.read, Memory.find_zeros size 0 a (Nat.zero_le a) (by omega)]

@[simp] theorem State.readWord_writeWord_same (s : State) (a : Nat) (v : Word36) :
    (s.writeWord a v).readWord a = v :=
  Memory.read_write_same s.core a v

theorem State.readWord_writeWord_other (s : State) {a a' : Nat} (v : Word36) (h : a' ≠ a) :
    (s.writeWord a v).readWord a' = s.readWord a' :=
  Memory.read_write_other s.core v h

/-! ### The canonical form -/

theorem Memory.risingFrom_weaken {lo lo' size : Nat} {m : Memory} (h : lo' ≤ lo) :
    Memory.risingFrom lo size m = true → Memory.risingFrom lo' size m = true := by
  cases m with
  | nil => simp [Memory.risingFrom]
  | cons c rest =>
    simp only [Memory.risingFrom, Bool.and_eq_true, decide_eq_true_eq]
    rintro ⟨⟨h1, h2⟩, h3⟩
    exact ⟨⟨h.trans h1, h2⟩, h3⟩

theorem Memory.risingFrom_write {a size : Nat} (v : Word36) (ha : a < size) (m : Memory) :
    ∀ lo, lo ≤ a → Memory.risingFrom lo size m = true → Memory.risingFrom lo size (Memory.write m a v) = true := by
  induction m with
  | nil => intro lo hlo _; simp [Memory.write, Memory.risingFrom, hlo, ha]
  | cons c rest ih =>
    obtain ⟨b, w⟩ := c
    intro lo hlo h
    simp only [Memory.risingFrom, Bool.and_eq_true, decide_eq_true_eq] at h
    obtain ⟨⟨h1, h2⟩, h3⟩ := h
    rcases Nat.lt_trichotomy a b with hb | hb | hb
    · simp [Memory.write, Memory.risingFrom, hb, hlo, ha, h2, h3, Nat.succ_le_of_lt hb]
    · subst hb
      simp [Memory.write, Memory.risingFrom, hlo, ha, h3]
    · simpa [Memory.write, Memory.risingFrom, Nat.not_lt.2 hb.le, (Nat.ne_of_lt hb).symm, h1, h2]
        using ih (b + 1) hb h3

/-- A write to a valid address keeps the canonical form. -/
theorem Memory.wf_write {size a : Nat} {m : Memory} (v : Word36) (ha : a < size) (h : Memory.wf size m = true) :
    Memory.wf size (Memory.write m a v) = true :=
  Memory.risingFrom_write v ha m 0 (Nat.zero_le a) h

theorem Memory.risingFrom_zeros (count : Nat) : ∀ first size, first + count ≤ size →
    Memory.risingFrom first size (Memory.zeros first count) = true := by
  induction count with
  | zero => intro first size _; rfl
  | succ n ih =>
    intro first size h
    simp [Memory.zeros, Memory.risingFrom, ih (first + 1) size (by omega)]
    omega

/-- The cleared memory has the canonical form. -/
theorem Memory.wf_zeros (size : Nat) : Memory.wf size (Memory.zeros 0 size) = true :=
  Memory.risingFrom_zeros size 0 size (by omega)

/-- The memory with nothing listed has the canonical form. -/
theorem Memory.wf_nil (size : Nat) : Memory.wf size [] = true := rfl

/-- The memory of the machine right after reset has the canonical form. -/
theorem State.reset_memory_wf : Memory.wf State.reset.coreSize State.reset.core = true := rfl

end Sys2Proof.Machine
end

