-- ==== Sys2Proof/Laws/Ops.lean ====
section
/-!
SUPPORT. The memory primitives, the status, the caller's next action, a command word and a host access: for each, once,
everything it can answer.
-/

namespace Sys2Proof.Machine

/-! ### MemRead and MemWrite (20_memory R64) -/

theorem withValidAddress_of_lt {who : Requester} {y : Addr} {s : State} (h : y.toNat < s.coreSize) (act : Result) :
    withValidAddress who y s act = act := by
  simp [withValidAddress, h]

theorem withValidAddress_of_le {who : Requester} {y : Addr} {s : State} (h : s.coreSize ≤ y.toNat) (act : Result) :
    withValidAddress who y s act = .fault (.addressOutOfRange who y) := by
  simp [withValidAddress, raiseAddressOutOfRange, Nat.not_lt.2 h]

theorem memRead_of_lt {who : Requester} {y : Addr} {s : State} (h : y.toNat < s.coreSize) (use : Word36 → Result) :
    memRead who y s use = use (s.readWord y.toNat) :=
  withValidAddress_of_lt h _

theorem memRead_of_le {who : Requester} {y : Addr} {s : State} (h : s.coreSize ≤ y.toNat) (use : Word36 → Result) :
    memRead who y s use = .fault (.addressOutOfRange who y) :=
  withValidAddress_of_le h _

theorem memWrite_of_lt {who : Requester} {y : Addr} {s : State} (h : y.toNat < s.coreSize) (v : Word36) :
    memWrite who y v s = .next (s.writeWord y.toNat v) :=
  withValidAddress_of_lt h _

theorem memWrite_of_le {who : Requester} {y : Addr} {s : State} (h : s.coreSize ≤ y.toNat) (v : Word36) :
    memWrite who y v s = .fault (.addressOutOfRange who y) :=
  withValidAddress_of_le h _

/-- Everything `memRead` can answer with a next state: the address was valid and the command went on with the word. -/
theorem memRead_next {who : Requester} {y : Addr} {s t : State} {use : Word36 → Result}
    (h : memRead who y s use = .next t) :
    y.toNat < s.coreSize ∧ use (s.readWord y.toNat) = .next t := by
  rcases Nat.lt_or_ge y.toNat s.coreSize with hy | hy
  · exact ⟨hy, by rwa [memRead_of_lt hy] at h⟩
  · rw [memRead_of_le hy] at h; cases h

/-- Everything `memWrite` can answer with a next state: the address was valid and that one word was given the value. -/
theorem memWrite_next {who : Requester} {y : Addr} {v : Word36} {s t : State} (h : memWrite who y v s = .next t) :
    y.toNat < s.coreSize ∧ t = s.writeWord y.toNat v := by
  rcases Nat.lt_or_ge y.toNat s.coreSize with hy | hy
  · rw [memWrite_of_lt hy] at h
    exact ⟨hy, by injection h with h; exact h.symm⟩
  · rw [memWrite_of_le hy] at h; cases h

/-! ### Status (60_exceptions R245) -/

@[simp] theorem statusOf_next (s : State) : statusOf (.next s) = some 0#2 := rfl
@[simp] theorem statusOf_addressOutOfRange (who : Requester) (y : Addr) :
    statusOf (.fault (.addressOutOfRange who y)) = some 1#2 := rfl
@[simp] theorem statusOf_unsupportedOpcode (w : Command) : statusOf (.fault (.unsupportedOpcode w)) = some 2#2 := rfl
@[simp] theorem statusOf_refused (r : Refusal) : statusOf (.refused r) = none := rfl

/-! ### The caller's side of a step (30_encoding R101, 46_bulk_and_host R226) -/

theorem runCommand_of_ok {w : Command} {i : Instr} (h : decode w = .ok i) (s : State) : runCommand w s = exec i s := by
  simp [runCommand, h]

theorem runCommand_of_error {w : Command} {e : DecodeError} (h : decode w = .error e) (s : State) :
    runCommand w s = .fault (.unsupportedOpcode w) := by
  simp [runCommand, h, raiseUnsupportedOpcode]

theorem hostAccess_readCore_of_lt {a : Addr} {s : State} (h : a.toNat < s.coreSize) :
    hostAccess (.readCore a) s = .next s := by
  rw [hostAccess, memRead_of_lt h]

theorem hostAccess_writeCore_of_lt {a : Addr} {s : State} (h : a.toNat < s.coreSize) (v : Word36) :
    hostAccess (.writeCore a v) s = .next (s.writeWord a.toNat v) := by
  rw [hostAccess, memWrite_of_lt h]

theorem hostAccess_readCore_of_le {a : Addr} {s : State} (h : s.coreSize ≤ a.toNat) :
    hostAccess (.readCore a) s = .fault (.addressOutOfRange (.host (.readCore a)) a) := by
  rw [hostAccess, memRead_of_le h]

theorem hostAccess_writeCore_of_le {a : Addr} {s : State} (h : s.coreSize ≤ a.toNat) (v : Word36) :
    hostAccess (.writeCore a v) s = .fault (.addressOutOfRange (.host (.writeCore a v)) a) := by
  rw [hostAccess, memWrite_of_le h]

/-! ### The caller's next action -/

theorem State.takeInput_nil {s : State} (h : s.inputs = []) : s.takeInput = none := by
  simp [State.takeInput, h]

theorem State.takeInput_cons {s : State} {e : Input} {rest : List Input} (h : s.inputs = e :: rest) :
    s.takeInput = some (e, s.setInputs rest) := by
  simp [State.takeInput, h]

/-- Everything a step can do: nothing, run a command word, or make a host access. -/
theorem step_cases (s : State) :
    (s.inputs = [] ∧ step s = .next s) ∨
    (∃ w rest, s.inputs = .command w :: rest ∧ step s = runCommand w (s.setInputs rest)) ∨
    (∃ h rest, s.inputs = .host h :: rest ∧ step s = hostAccess h (s.setInputs rest)) := by
  rcases hin : s.inputs with _ | ⟨e, rest⟩
  · exact .inl ⟨rfl, by simp [step, State.takeInput_nil hin, idle]⟩
  · cases e with
    | command w => exact .inr (.inl ⟨w, rest, rfl, by simp [step, State.takeInput_cons hin]⟩)
    | host h => exact .inr (.inr ⟨h, rest, rfl, by simp [step, State.takeInput_cons hin]⟩)

end Sys2Proof.Machine
end

