-- ==== Sys2Proof/Laws/Exec.lean ====
section
/-!
SUPPORT. What `exec` answers, one equation per instruction: a next state written out over the shared operations, behind
the address check where the command is of format M. Later proofs cite these and unfold no meaning.
-/

namespace Sys2Proof.Machine

/-- Everything a checked command can answer with a next state. -/
theorem withValidAddress_next {who : Requester} {y : Addr} {s t u : State}
    (h : withValidAddress who y s (.next u) = .next t) :
    y.toNat < s.coreSize ∧ t = u := by
  rcases Nat.lt_or_ge y.toNat s.coreSize with hy | hy
  · rw [withValidAddress_of_lt hy] at h
    exact ⟨hy, by injection h with h; exact h.symm⟩
  · rw [withValidAddress_of_le hy] at h; cases h

/-- A read followed by a write of the same word is one checked write (20_memory R63). -/
theorem memRead_memWrite (who : Requester) (y : Addr) (s : State) (f : Word36 → Word36) :
    (memRead who y s fun w => memWrite who y (f w) s) =
      withValidAddress who y s (.next (s.writeWord y.toNat (f (s.readWord y.toNat)))) := by
  rcases Nat.lt_or_ge y.toNat s.coreSize with hy | hy
  · rw [memRead_of_lt hy, memWrite_of_lt hy, withValidAddress_of_lt hy]
  · rw [memRead_of_le hy, withValidAddress_of_le hy]

/-! ### Loads and stores -/

theorem exec_cla (y : Addr) (s : State) : exec (.cla y) s = withValidAddress (.command (.cla y)) y s
    (.next (s.setAc (packAc (wordSign (s.readWord y.toNat)) false false (wordMag (s.readWord y.toNat))))) := rfl
theorem exec_cls (y : Addr) (s : State) : exec (.cls y) s = withValidAddress (.command (.cls y)) y s
    (.next (s.setAc (packAc (!wordSign (s.readWord y.toNat)) false false (wordMag (s.readWord y.toNat))))) := rfl
theorem exec_ldq (y : Addr) (s : State) : exec (.ldq y) s = withValidAddress (.command (.ldq y)) y s
    (.next (s.setMq (s.readWord y.toNat))) := rfl
theorem exec_sto (y : Addr) (s : State) : exec (.sto y) s = withValidAddress (.command (.sto y)) y s
    (.next (s.writeWord y.toNat (packWord (acSign s.ac) (acMag s.ac)))) := rfl
theorem exec_stq (y : Addr) (s : State) : exec (.stq y) s = withValidAddress (.command (.stq y)) y s
    (.next (s.writeWord y.toNat s.mq)) := rfl
theorem exec_slq (y : Addr) (s : State) : exec (.slq y) s = withValidAddress (.command (.slq y)) y s
    (.next (s.writeWord y.toNat (slqWord s.mq (s.readWord y.toNat)))) := memRead_memWrite _ y s _
theorem exec_stp (y : Addr) (s : State) : exec (.stp y) s = withValidAddress (.command (.stp y)) y s
    (.next (s.writeWord y.toNat (stpWord s.ac (s.readWord y.toNat)))) := memRead_memWrite _ y s _
theorem exec_std (y : Addr) (s : State) : exec (.std y) s = withValidAddress (.command (.std y)) y s
    (.next (s.writeWord y.toNat (stdWord s.ac (s.readWord y.toNat)))) := memRead_memWrite _ y s _
theorem exec_sta (y : Addr) (s : State) : exec (.sta y) s = withValidAddress (.command (.sta y)) y s
    (.next (s.writeWord y.toNat (staWord s.ac (s.readWord y.toNat)))) := memRead_memWrite _ y s _

/-! ### Sign and clear -/

theorem exec_clm (s : State) : exec .clm s = .next (s.setAc (packAc (acSign s.ac) false false 0#35)) := rfl
theorem exec_chs (s : State) : exec .chs s = .next (s.setAc (togglebit s.ac 37)) := rfl
theorem exec_ssp (s : State) : exec .ssp s = .next (s.setAc (acWithSign s.ac false)) := rfl
theorem exec_ssm (s : State) : exec .ssm s = .next (s.setAc (acWithSign s.ac true)) := rfl

/-! ### Logical -/

theorem exec_cal (y : Addr) (s : State) : exec (.cal y) s = withValidAddress (.command (.cal y)) y s
    (.next (s.setAc (calAc s.ac (s.readWord y.toNat)))) := rfl
theorem exec_acl (y : Addr) (s : State) : exec (.acl y) s = withValidAddress (.command (.acl y)) y s
    (.next (s.setAc (aclAc s.ac (s.readWord y.toNat)))) := rfl

/-! ### Raw arithmetic -/

theorem exec_add (y : Addr) (s : State) : exec (.add y) s = withValidAddress (.command (.add y)) y s
    (.next (s.setAc (if wordSign (s.readWord y.toNat) then rawSub s.ac (wordMag (s.readWord y.toNat))
      else rawAdd s.ac (s.readWord y.toNat)))) := rfl
theorem exec_adm (y : Addr) (s : State) : exec (.adm y) s = withValidAddress (.command (.adm y)) y s
    (.next (s.setAc (rawAdd s.ac (wordMag (s.readWord y.toNat))))) := rfl
theorem exec_sub (y : Addr) (s : State) : exec (.sub y) s = withValidAddress (.command (.sub y)) y s
    (.next (s.setAc (if wordSign (s.readWord y.toNat) then rawAdd s.ac (wordMag (s.readWord y.toNat))
      else rawSub s.ac (s.readWord y.toNat)))) := rfl
theorem exec_sbm (y : Addr) (s : State) : exec (.sbm y) s = withValidAddress (.command (.sbm y)) y s
    (.next (s.setAc (rawSub s.ac (wordMag (s.readWord y.toNat))))) := rfl
theorem exec_rnd (s : State) : exec .rnd s = .next (s.setAc (rndAc s.ac s.mq)) := rfl

/-! ### Multiply and divide -/

theorem exec_mpy (y : Addr) (s : State) : exec (.mpy y) s = withValidAddress (.command (.mpy y)) y s
    (.next (multiply (s.readWord y.toNat) s)) := rfl
theorem exec_mpr (y : Addr) (s : State) : exec (.mpr y) s = withValidAddress (.command (.mpr y)) y s
    (.next ((multiply (s.readWord y.toNat) s).setAc
      (rndAc (multiply (s.readWord y.toNat) s).ac (multiply (s.readWord y.toNat) s).mq))) := rfl
theorem exec_dvh (y : Addr) (s : State) : exec (.dvh y) s = withValidAddress (.command (.dvh y)) y s
    (.next (divide true (s.readWord y.toNat) s)) := rfl
theorem exec_dvp (y : Addr) (s : State) : exec (.dvp y) s = withValidAddress (.command (.dvp y)) y s
    (.next (divide false (s.readWord y.toNat) s)) := rfl

/-! ### Bulk operations -/

theorem exec_clearCore (s : State) : exec .clearCore s = .next (s.setCore (Memory.zeros 0 s.coreSize)) := rfl
theorem exec_clearArith (s : State) : exec .clearArith s = .next (clearArithRegisters s) := rfl
theorem exec_clearProg (s : State) : exec .clearProg s = .next (clearProgRegisters s) := rfl
theorem exec_clearAll (s : State) : exec .clearAll s = .next (clearProgRegisters (clearArithRegisters s)) := rfl

end Sys2Proof.Machine
end

