-- ==== Sys2Proof/Laws/PerInstr.lean ====
section
/-!
SUPPORT. Statements made once per instruction, about the instruction as syntax: the family `TableRow`, that the word
the encoder writes selects, of all the rows of the opcode table, the one with the instruction's own mnemonic and format.
-/

namespace Sys2Proof.Laws.TableRow

/-- The encoded word selects one row of the opcode table, the instruction's own (30_encoding R96, R97). -/
def Statement (i : Instr) : Prop :=
  (opcodeTable.filter fun r => encode i &&& r.mask == r.pattern).map (fun r => (r.mnemonic, r.format)) =
    [(i.mnemonic, i.format)]

theorem cla (y : Addr) : Statement (.cla y) := by
  simp [Statement, opcodeTable, encode, Instr.address?, Instr.tag, tag_of_masked, Instr.mnemonic, Instr.format]

theorem cls (y : Addr) : Statement (.cls y) := by
  simp [Statement, opcodeTable, encode, Instr.address?, Instr.tag, tag_of_masked, Instr.mnemonic, Instr.format]

theorem ldq (y : Addr) : Statement (.ldq y) := by
  simp [Statement, opcodeTable, encode, Instr.address?, Instr.tag, tag_of_masked, Instr.mnemonic, Instr.format]

theorem sto (y : Addr) : Statement (.sto y) := by
  simp [Statement, opcodeTable, encode, Instr.address?, Instr.tag, tag_of_masked, Instr.mnemonic, Instr.format]

theorem stq (y : Addr) : Statement (.stq y) := by
  simp [Statement, opcodeTable, encode, Instr.address?, Instr.tag, tag_of_masked, Instr.mnemonic, Instr.format]

theorem slq (y : Addr) : Statement (.slq y) := by
  simp [Statement, opcodeTable, encode, Instr.address?, Instr.tag, tag_of_masked, Instr.mnemonic, Instr.format]

theorem stp (y : Addr) : Statement (.stp y) := by
  simp [Statement, opcodeTable, encode, Instr.address?, Instr.tag, tag_of_masked, Instr.mnemonic, Instr.format]

theorem std (y : Addr) : Statement (.std y) := by
  simp [Statement, opcodeTable, encode, Instr.address?, Instr.tag, tag_of_masked, Instr.mnemonic, Instr.format]

theorem sta (y : Addr) : Statement (.sta y) := by
  simp [Statement, opcodeTable, encode, Instr.address?, Instr.tag, tag_of_masked, Instr.mnemonic, Instr.format]

theorem clm : Statement .clm := by unfold Statement; decide

theorem chs : Statement .chs := by unfold Statement; decide

theorem ssp : Statement .ssp := by unfold Statement; decide

theorem ssm : Statement .ssm := by unfold Statement; decide

theorem cal (y : Addr) : Statement (.cal y) := by
  simp [Statement, opcodeTable, encode, Instr.address?, Instr.tag, tag_of_masked, Instr.mnemonic, Instr.format]

theorem acl (y : Addr) : Statement (.acl y) := by
  simp [Statement, opcodeTable, encode, Instr.address?, Instr.tag, tag_of_masked, Instr.mnemonic, Instr.format]

theorem add (y : Addr) : Statement (.add y) := by
  simp [Statement, opcodeTable, encode, Instr.address?, Instr.tag, tag_of_masked, Instr.mnemonic, Instr.format]

theorem adm (y : Addr) : Statement (.adm y) := by
  simp [Statement, opcodeTable, encode, Instr.address?, Instr.tag, tag_of_masked, Instr.mnemonic, Instr.format]

theorem sub (y : Addr) : Statement (.sub y) := by
  simp [Statement, opcodeTable, encode, Instr.address?, Instr.tag, tag_of_masked, Instr.mnemonic, Instr.format]

theorem sbm (y : Addr) : Statement (.sbm y) := by
  simp [Statement, opcodeTable, encode, Instr.address?, Instr.tag, tag_of_masked, Instr.mnemonic, Instr.format]

theorem rnd : Statement .rnd := by unfold Statement; decide

theorem mpy (y : Addr) : Statement (.mpy y) := by
  simp [Statement, opcodeTable, encode, Instr.address?, Instr.tag, tag_of_masked, Instr.mnemonic, Instr.format]

theorem mpr (y : Addr) : Statement (.mpr y) := by
  simp [Statement, opcodeTable, encode, Instr.address?, Instr.tag, tag_of_masked, Instr.mnemonic, Instr.format]

theorem dvh (y : Addr) : Statement (.dvh y) := by
  simp [Statement, opcodeTable, encode, Instr.address?, Instr.tag, tag_of_masked, Instr.mnemonic, Instr.format]

theorem dvp (y : Addr) : Statement (.dvp y) := by
  simp [Statement, opcodeTable, encode, Instr.address?, Instr.tag, tag_of_masked, Instr.mnemonic, Instr.format]

theorem clearCore : Statement .clearCore := by unfold Statement; decide

theorem clearArith : Statement .clearArith := by unfold Statement; decide

theorem clearProg : Statement .clearProg := by unfold Statement; decide

theorem clearAll : Statement .clearAll := by unfold Statement; decide

end Sys2Proof.Laws.TableRow
end

