-- ==== Sys2Proof/Tests/Slice0.lean ====
section
/-!
SUPPORT. The model's own tests: decoding of words written out from the spec's encoding, the well-formedness smoke test,
one or two single steps per instruction with the results that 95_test_vectors prints, and, for every statement with
hypotheses, a concrete state and operands that meet them.
-/

namespace Sys2Proof.Tests

open Sys2Proof.Machine

/-- The machine after reset with the given accumulator, MQ and core words. -/
def given (ac : AcWord) (mq : Word36) (core : Memory) : State :=
  { State.reset with ac := ac, mq := mq, core := core }

/-- What `f` reads of the next state, where there is one. -/
def after {α : Type} (r : Result) (f : State → α) : Option α :=
  match r with
  | .next t => some (f t)
  | .fault _ => none
  | .refused _ => none

/-- The fault of an outcome, where it is one. -/
def faultOf (r : Result) : Option Fault :=
  match r with
  | .next _ => none
  | .fault e => some e
  | .refused _ => none

/-- Whether a command word decodes to this instruction. -/
def decodesTo (w : Command) (i : Instr) : Bool :=
  match decode w with
  | .ok j => j == i
  | .error _ => false

/-- Whether a command word is refused for this tag. -/
def refusedFor (w : Command) (t : Tag) : Bool :=
  match decode w with
  | .ok _ => false
  | .error (.unsupportedOpcode u) => u == t

/-! ### Decoding: each word written out bit by bit, tag then address field (30_encoding R92, R96, R97) -/

theorem test_decode_cla : decodesTo 0b00000_001011011111110#20 (.cla 5886#15) = true := by decide
theorem test_decode_cls : decodesTo 0b00001_001110111111011#20 (.cls 7675#15) = true := by decide
theorem test_decode_ldq : decodesTo 0b00010_010010011111000#20 (.ldq 9464#15) = true := by decide
theorem test_decode_sto : decodesTo 0b00011_010101111110101#20 (.sto 11253#15) = true := by decide
theorem test_decode_stq : decodesTo 0b00100_011001011110010#20 (.stq 13042#15) = true := by decide
theorem test_decode_slq : decodesTo 0b00101_011100111101111#20 (.slq 14831#15) = true := by decide
theorem test_decode_stp : decodesTo 0b00110_100000011101100#20 (.stp 16620#15) = true := by decide
theorem test_decode_std : decodesTo 0b00111_100011111101001#20 (.std 18409#15) = true := by decide
theorem test_decode_sta : decodesTo 0b01000_100111011100110#20 (.sta 20198#15) = true := by decide
theorem test_decode_clm : decodesTo 0b01001_000000100100011#20 .clm = true := by decide
theorem test_decode_chs : decodesTo 0b01010_000000100100011#20 .chs = true := by decide
theorem test_decode_ssp : decodesTo 0b01011_000000100100011#20 .ssp = true := by decide
theorem test_decode_ssm : decodesTo 0b01100_000000100100011#20 .ssm = true := by decide
theorem test_decode_cal : decodesTo 0b01101_101010111100011#20 (.cal 21987#15) = true := by decide
theorem test_decode_acl : decodesTo 0b01110_101110011100000#20 (.acl 23776#15) = true := by decide
theorem test_decode_add : decodesTo 0b01111_110001111011101#20 (.add 25565#15) = true := by decide
theorem test_decode_adm : decodesTo 0b10000_110101011011010#20 (.adm 27354#15) = true := by decide
theorem test_decode_sub : decodesTo 0b10001_111000111010111#20 (.sub 29143#15) = true := by decide
theorem test_decode_sbm : decodesTo 0b10010_111100011010100#20 (.sbm 30932#15) = true := by decide
theorem test_decode_rnd : decodesTo 0b10011_000000100100011#20 .rnd = true := by decide
theorem test_decode_mpy : decodesTo 0b10100_111111111010001#20 (.mpy 32721#15) = true := by decide
theorem test_decode_mpr : decodesTo 0b10101_000011011001110#20 (.mpr 1742#15) = true := by decide
theorem test_decode_dvh : decodesTo 0b10110_000110111001011#20 (.dvh 3531#15) = true := by decide
theorem test_decode_dvp : decodesTo 0b10111_001010011001000#20 (.dvp 5320#15) = true := by decide
theorem test_decode_clearCore : decodesTo 0b11000_111111111111111#20 .clearCore = true := by decide
theorem test_decode_clearArith : decodesTo 0b11001_111111111111111#20 .clearArith = true := by decide
theorem test_decode_clearProg : decodesTo 0b11010_111111111111111#20 .clearProg = true := by decide
theorem test_decode_clearAll : decodesTo 0b11011_111111111111111#20 .clearAll = true := by decide

theorem test_decode_tag28_refused : refusedFor 0xE0000#20 28#5 = true := by decide
theorem test_decode_tag31_refused : refusedFor 0xFFFFF#20 31#5 = true := by decide

theorem test_decodeTableWord_add : decodeTableWord 24 0x78001 = some (.add 1#15) := by decide
theorem test_decodeTableWord_refuses_bit20 : decodeTableWord 24 0x178001 = none := by decide

/-- `step` runs the word that `withFetchWord` presents, as the first instruction after reset. -/
theorem test_withFetchWord_ssm : after (step (State.reset.withFetchWord 24 0x60000)) (·.ac) = some 0x2000000000#38 := by
  decide

/-! ### Well-formedness smoke test: the one check, on every format M instruction -/

/-- The format M instructions, as functions of their address. -/
def memoryForms : List (Addr → Instr) :=
    [Instr.cla, Instr.cls, Instr.ldq, Instr.sto, Instr.stq, Instr.slq, Instr.stp, Instr.std, Instr.sta,
    Instr.cal, Instr.acl, Instr.add, Instr.adm, Instr.sub, Instr.sbm, Instr.mpy, Instr.mpr, Instr.dvh,
    Instr.dvp]

theorem test_wellFormed_refuses_8192 : memoryForms.all (fun f => !((f 8192#15).wellFormed 8192)) = true := by decide
theorem test_wellFormed_accepts_8191 : memoryForms.all (fun f => (f 8191#15).wellFormed 8192) = true := by decide
theorem test_wellFormed_accepts_no_address :
    [Instr.clm, .chs, .ssp, .ssm, .rnd, .clearCore, .clearArith, .clearProg, .clearAll].all
      (fun i => i.wellFormed 1) = true := by decide

/-! ### Codec and bit utilities (95_test_vectors 2.1) -/

theorem test_getbit : getbit 0x2000000005#38 37 = true := by decide
theorem test_setbit : setbit 0x000000000#36 35 = 0x800000000#36 := by decide
theorem test_clearbit : clearbit 0x3FFFFFFFFF#38 36 = 0x2FFFFFFFFF#38 := by decide
theorem test_togglebit : togglebit 0x0800000000#38 35 = 0x0000000000#38 := by decide
theorem test_toSigned_negative_zero : toSigned (s := 35) 0x800000000#36 = 0 := by decide
theorem test_toSigned_ac : toSigned (s := 37) 0x3800000002#38 = -103079215106 := by decide
theorem test_toWord_negative : toWord 35 (-20) = some 0x800000014#36 := by decide
theorem test_toWord_out_of_contract : toWord 35 34359738368 = none := by decide
theorem test_signedAdd_unlike_signs : signedAdd (s := 35) 0x000000005#36 0x800000014#36 = some 0x80000000F#36 := by decide
theorem test_signedAdd_out_of_contract : signedAdd (s := 35) 0x7FFFFFFFF#36 0x000000001#36 = none := by decide

/-! ### Loads and stores (95_test_vectors 2.2) -/

theorem test_cla_replaces_guard_bits :
    after (exec (.cla 3#15) (given 0x3FFFFFFFFF#38 0#36 [(3, 0x800000014#36)])) (·.ac) = some 0x2000000014#38 := by decide
theorem test_cla_negative_zero :
    after (exec (.cla 3#15) (given 0#38 0#36 [(3, 0x800000000#36)])) (·.ac) = some 0x2000000000#38 := by decide
theorem test_cls_of_plus_zero :
    after (exec (.cls 3#15) (given 0#38 0#36 [(3, 0x000000000#36)])) (·.ac) = some 0x2000000000#38 := by decide
theorem test_cls_of_negative :
    after (exec (.cls 3#15) (given 0#38 0#36 [(3, 0x800000014#36)])) (·.ac) = some 0x0000000014#38 := by decide
theorem test_ldq :
    after (exec (.ldq 0#15) (given 0#38 0#36 [(0, 0xFFFFFFFFF#36)])) (·.mq) = some 0xFFFFFFFFF#36 := by decide
theorem test_sto_drops_guard_bits :
    after (exec (.sto 9#15) (given 0x35A5A5A5A5#38 0#36 [])) (·.readWord 9) = some 0xDA5A5A5A5#36 := by decide
theorem test_sto_negative_zero :
    after (exec (.sto 9#15) (given 0x2000000000#38 0#36 [])) (·.readWord 9) = some 0x800000000#36 := by decide
theorem test_stq :
    after (exec (.stq 7#15) (given 0#38 0x80000002A#36 [])) (·.readWord 7) = some 0x80000002A#36 := by decide
theorem test_slq :
    after (exec (.slq 4#15) (given 0#38 0xABCDEF012#36 [(4, 0x123456789#36)])) (·.readWord 4) = some 0xABCDD6789#36 := by decide
theorem test_stp_sign_from_bit37 :
    after (exec (.stp 4#15) (given 0x35A5A5A5A5#38 0#36 [(4, 0x123456789#36)])) (·.readWord 4) = some 0xD23456789#36 := by decide
theorem test_stp_not_from_q :
    after (exec (.stp 4#15) (given 0x0E00000000#38 0#36 [(4, 0x123456789#36)])) (·.readWord 4) = some 0x723456789#36 := by decide
theorem test_std :
    after (exec (.std 4#15) (given 0x35A5A5A5A5#38 0#36 [(4, 0x123456789#36)])) (·.readWord 4) = some 0x1A5A56789#36 := by decide
theorem test_sta :
    after (exec (.sta 4#15) (given 0x35A5A5A5A5#38 0#36 [(4, 0x123456789#36)])) (·.readWord 4) = some 0x1234525A5#36 := by decide
theorem test_sto_keeps_cells_rising :
    after (exec (.sto 5#15) (given 1#38 0#36 [(4, 7#36), (6, 8#36)])) (·.core) =
      some [(4, 7#36), (5, 1#36), (6, 8#36)] := by decide

/-! ### Sign and clear (2.3) -/

theorem test_clm_keeps_sign :
    after (exec .clm (given 0x3FFFFFFFFF#38 0#36 [])) (·.ac) = some 0x2000000000#38 := by decide
theorem test_clm_positive :
    after (exec .clm (given 0x1800000007#38 0#36 [])) (·.ac) = some 0x0000000000#38 := by decide
theorem test_chs_keeps_guard_bits :
    after (exec .chs (given 0x3800000001#38 0#36 [])) (·.ac) = some 0x1800000001#38 := by decide
theorem test_chs_of_zero :
    after (exec .chs (given 0#38 0#36 [])) (·.ac) = some 0x2000000000#38 := by decide
theorem test_ssp :
    after (exec .ssp (given 0x3000000005#38 0#36 [])) (·.ac) = some 0x1000000005#38 := by decide
theorem test_ssm :
    after (exec .ssm (given 0x0000000005#38 0#36 [])) (·.ac) = some 0x2000000005#38 := by decide

/-! ### Logical (2.4) -/

theorem test_cal_bit35_to_q :
    after (exec (.cal 1#15) (given 0#38 0#36 [(1, 0x800000014#36)])) (·.ac) = some 0x0800000014#38 := by decide
theorem test_cal_keeps_s_and_p :
    after (exec (.cal 1#15) (given 0x3FFFFFFFFF#38 0#36 [(1, 0#36)])) (·.ac) = some 0x3000000000#38 := by decide
theorem test_acl_carry_dropped :
    after (exec (.acl 1#15) (given 0x0FFFFFFFFF#38 0#36 [(1, 0x000000001#36)])) (·.ac) = some 0x0000000000#38 := by decide
theorem test_acl_p_and_carry :
    after (exec (.acl 1#15) (given 0x1FFFFFFFFF#38 0#36 [(1, 0xFFFFFFFFF#36)])) (·.ac) = some 0x1FFFFFFFFE#38 := by decide

/-! ### Add, subtract, round (2.5) -/

theorem test_add_negative_operand :
    after (exec (.add 1#15) (given 0x0000000002#38 0#36 [(1, 0x800000005#36)])) (·.ac) = some 0x3FFFFFFFFD#38 := by decide
theorem test_add_wraps :
    after (exec (.add 1#15) (given 0x3FFFFFFFFF#38 0#36 [(1, 0x000000001#36)])) (·.ac) = some 0x0000000000#38 := by decide
theorem test_adm_ignores_sign :
    after (exec (.adm 1#15) (given 0x000000000A#38 0#36 [(1, 0x800000003#36)])) (·.ac) = some 0x000000000D#38 := by decide
theorem test_sub_borrows_through_sign :
    after (exec (.sub 1#15) (given 0x2000000002#38 0#36 [(1, 0x000000003#36)])) (·.ac) = some 0x1FFFFFFFFF#38 := by decide
theorem test_sub_negative_operand :
    after (exec (.sub 1#15) (given 0x000000000A#38 0#36 [(1, 0x800000003#36)])) (·.ac) = some 0x000000000D#38 := by decide
theorem test_sbm_below_zero :
    after (exec (.sbm 1#15) (given 0x0000000003#38 0#36 [(1, 0x00000000A#36)])) (·.ac) = some 0x3FFFFFFFF9#38 := by decide
theorem test_rnd_carries_into_q :
    after (exec .rnd (given 0x27FFFFFFFF#38 0x400000000#36 [])) (·.ac) = some 0x2800000000#38 := by decide
theorem test_rnd_bit34_clear :
    after (exec .rnd (given 0x0000000007#38 0xBFFFFFFFF#36 [])) (·.ac) = some 0x0000000007#38 := by decide

/-! ### Multiply and divide (2.6) -/

theorem test_mpy_zero_product_keeps_sign :
    after (exec (.mpy 2#15) (given 0#38 0x800000009#36 [(2, 0#36)])) (fun t => (t.ac, t.mq)) = some (0x2000000000#38, 0x800000000#36) := by decide
theorem test_mpy_largest :
    after (exec (.mpy 2#15) (given 0#38 0x7FFFFFFFF#36 [(2, 0x7FFFFFFFF#36)])) (fun t => (t.ac, t.mq)) = some (0x07FFFFFFFE#38, 0x000000001#36) := by decide
theorem test_mpr_rounds_up :
    after (exec (.mpr 2#15) (given 0#38 0x400000001#36 [(2, 0x000000003#36)])) (fun t => (t.ac, t.mq)) = some (0x0000000002#38, 0x400000003#36) := by decide
theorem test_mpr_negative_no_round :
    after (exec (.mpr 2#15) (given 0#38 0x000020000#36 [(2, 0x800040000#36)])) (fun t => (t.ac, t.mq)) = some (0x2000000001#38, 0x800000000#36) := by decide
theorem test_dvh_clears_guard_bits :
    after (exec (.dvh 1#15) (given 0x1800000003#38 0x000000005#36 [(1, 0x000000004#36)])) (fun t => (t.ac, t.mq, t.readFlag .divideCheck, t.readFlag .halt)) = some (0x0000000001#38, 0x600000001#36, false, false) := by decide
theorem test_dvh_equal_overflows :
    after (exec (.dvh 1#15) (given 0x0000000007#38 0x000000063#36 [(1, 0x000000007#36)])) (fun t => (t.ac, t.mq, t.readFlag .divideCheck, t.readFlag .halt)) = some (0x0000000007#38, 0x000000063#36, true, true) := by decide
theorem test_dvp_one_above_divides :
    after (exec (.dvp 1#15) (given 0x0000000007#38 0x000000063#36 [(1, 0x000000008#36)])) (fun t => (t.ac, t.mq, t.readFlag .divideCheck, t.readFlag .halt)) = some (0x0000000003#38, 0x70000000C#36, false, false) := by decide
theorem test_dvp_equal_overflows :
    after (exec (.dvp 1#15) (given 0x0000000007#38 0x000000063#36 [(1, 0x000000007#36)])) (fun t => (t.ac, t.mq, t.readFlag .divideCheck, t.readFlag .halt)) = some (0x0000000007#38, 0x000000063#36, true, false) := by decide

/-! ### Bulk operations (2.7) -/

/-- A machine with every register and two flags set, and four core words of which one has been given a value. -/
def busy : State :=
  { State.construct 4 true with
    ac := 0x3FFFFFFFFF#38, mq := 0xFFFFFFFFF#36, sr := 1#36, xr1 := 1#15, xr2 := 2#15, xr3 := 0x7FFF#15,
    ilc := 100#15, ir := 0x3FFFF#18, core := [(3, 0xFFFFFFFFF#36)],
    flags := (FlagBank.cleared.write .divideCheck true).write .halt true }

theorem test_clearCore_every_word :
    after (exec .clearCore busy) (fun t => (t.core, t.ac, t.readFlag .halt)) =
      some ([(0, 0#36), (1, 0#36), (2, 0#36), (3, 0#36)], 0x3FFFFFFFFF#38, true) := by decide
theorem test_clearArith :
    after (exec .clearArith busy) id = some { busy with ac := 0#38, mq := 0#36, sr := 0#36 } := by decide
theorem test_clearProg :
    after (exec .clearProg busy) id =
      some { busy with ilc := 0#15, ir := 0#18, sr := 0#36, xr1 := 0#15, xr2 := 0#15, xr3 := 0#15 } := by decide
theorem test_clearAll_keeps_flags :
    after (exec .clearAll busy) id =
      some { State.construct 4 true with core := busy.core, flags := busy.flags } := by decide

/-! ### Violations and the caller -/

/-- A machine whose caller has these actions to take. -/
def asked (l : List Input) : State := { busy with inputs := l }

theorem test_tag_is_tested_before_address :
    faultOf (step (asked [.command 0xFFFFF#20])) = some (.unsupportedOpcode 0xFFFFF#20) := by decide
theorem test_dvh_out_of_range_sets_no_flag :
    faultOf (step (asked [.command 0xB0004#20])) = some (.addressOutOfRange (.command (.dvh 4#15)) 4#15) := by
  decide
theorem test_ignored_field_is_not_checked :
    after (step (asked [.command 0x48123#20])) (·.ac) = some 0x2000000000#38 := by decide
/-- Rows 1 and 2 of 60_exceptions R245; the first 0 is the idle step's, the model's choice (log entry 19). -/
theorem test_status_codes :
    (statusOf (step (asked [])), statusOf (step (asked [.command 0x00004#20])),
      statusOf (step (asked [.command 0xE0000#20]))) = (some 0#2, some 1#2, some 2#2) := by decide
theorem test_host_write_register :
    after (step (asked [.host (.writeRegister .xr2 5#15)])) id = some { busy with xr2 := 5#15 } := by decide
theorem test_host_write_flag :
    after (step (asked [.host (.writeFlag .divideCheck false)])) (fun t => (t.readFlag .divideCheck, t.readFlag .halt)) =
      some (false, true) := by decide
theorem test_host_write_core :
    after (step (asked [.host (.writeCore 2#15 9#36)])) (·.core) = some [(2, 9#36), (3, 0xFFFFFFFFF#36)] := by decide
theorem test_host_core_access_out_of_range :
    faultOf (step (asked [.host (.readCore 4#15)])) = some (.addressOutOfRange (.host (.readCore 4#15)) 4#15) := by decide
theorem test_host_reset_keeps_core :
    after (step (asked [.host .reset])) id = some { State.construct 4 true with core := busy.core } := by decide

/-! ### Witnesses: for each statement with hypotheses, values that meet them, each clause at a boundary

The nineteen statements `CompletesWithAddress …` share `witness_address_boundaries`: address 8191 is in range and the
command completes, address 8192 is out of range, on the machine after reset. -/

theorem witness_address_boundaries :
    (8191#15).toNat < State.reset.coreSize ∧ State.reset.coreSize ≤ (8192#15).toNat ∧
    memoryForms.all (fun f => (after (exec (f 8191#15) State.reset) (fun _ => ())).isSome) = true ∧
    memoryForms.all (fun f =>
      faultOf (exec (f 8192#15) State.reset) == some (.addressOutOfRange (.command (f 8192#15)) 8192#15)) = true := by
  decide

theorem witness_EveryWordSelectsOneRowOrIsRefused :
    28 ≤ (tagField 0xE0000#20).toNat ∧ (tagField 0xDFFFF#20).toNat < 28 := by decide

theorem witness_EncodeUndoesDecode :
    decode 0xBFFFF#20 = .ok (.dvp 0x7FFF#15) ∧ (Instr.dvp 0x7FFF#15).format = .M ∧
    decode 0xDFFFF#20 = .ok .clearAll ∧ Instr.clearAll.format ≠ .M := by decide

theorem witness_CodecRoundTrip :
    0xFFFFFFFFF#36 ≠ BitVec.twoPow 36 35 ∧ 0x000000000#36 ≠ BitVec.twoPow 36 35 ∧
    (-34359738367 : Int).natAbs ≤ 2 ^ 35 - 1 ∧ (34359738367 : Int).natAbs ≤ 2 ^ 35 - 1 := by decide

theorem witness_CodecAddIsExactOrRefused :
    (toSigned (s := 35) 0x7FFFFFFFE#36 + toSigned (s := 35) 0x000000001#36).natAbs < 2 ^ 35 ∧
    2 ^ 35 ≤ (toSigned (s := 35) 0x7FFFFFFFF#36 + toSigned (s := 35) 0x000000001#36).natAbs := by decide

theorem witness_StepKeepsWellFormed :
    busy.wf ∧ (after (step (asked [.command 0x18000#20])) (·.core)) = some [(0, 0xFFFFFFFFF#36), (3, 0xFFFFFFFFF#36)] ∧
    (asked [.command 0x18000#20]).wf := by decide

theorem witness_StepRunsDecodedCommand :
    (asked [.command 0x48123#20]).inputs = .command 0x48123#20 :: [] ∧ decode 0x48123#20 = .ok .clm := by decide

theorem witness_UnsupportedTagIsViolation :
    (asked [.command 0xE0000#20]).inputs = .command 0xE0000#20 :: [] ∧ 28 ≤ (0xE0000#20).toNat / 2 ^ 15 := by decide

/-- The clauses of `StepOutcomes`: no action; tag 28; tag 27; format M at addresses 3 and 4 of a machine of 4 words; a
host access that completes and the two that do not. -/
theorem witness_StepOutcomes :
    (asked []).inputs = [] ∧ 28 ≤ (0xE0000#20).toNat / 2 ^ 15 ∧ (0xDFFFF#20).toNat / 2 ^ 15 < 28 ∧
    decode 0x00003#20 = .ok (.cla 3#15) ∧ ¬ busy.coreSize ≤ (0x00003#20).toNat % 2 ^ 15 ∧
    decode 0x00004#20 = .ok (.cla 4#15) ∧ busy.coreSize ≤ (0x00004#20).toNat % 2 ^ 15 ∧
    (after (step (asked [.host .reset])) (fun _ => ())).isSome = true ∧
    faultOf (step (asked [.host (.writeCore 4#15 0#36)])) =
      some (.addressOutOfRange (.host (.writeCore 4#15 0#36)) 4#15) ∧
    (3#15).toNat < busy.coreSize ∧ (after (step (asked [.host (.readCore 3#15)])) (fun _ => ())).isSome = true := by decide

theorem witness_WellFormedCommandsComplete :
    (Instr.cla 8191#15).wellFormed State.reset.coreSize = true ∧
    (Instr.cla 8192#15).wellFormed State.reset.coreSize = false := by decide

theorem witness_CallerWritesRegister :
    (asked [.host (.writeRegister .ac 0#38)]).inputs = .host (.writeRegister .ac 0#38) :: [] := by decide

theorem witness_CallerWritesFlag :
    (asked [.host (.writeFlag .trapMode true)]).inputs = .host (.writeFlag .trapMode true) :: [] := by decide

theorem witness_CallerWritesCore :
    (asked [.host (.writeCore 3#15 1#36)]).inputs = .host (.writeCore 3#15 1#36) :: [] ∧
    (3#15).toNat < busy.coreSize ∧ busy.coreSize ≤ (4#15).toNat := by decide

theorem witness_CallerReadsChangeNothing :
    (asked [.host (.readRegister .ir)]).inputs = .host (.readRegister .ir) :: [] ∧
    (asked [.host (.readFlag .halt)]).inputs = .host (.readFlag .halt) :: [] ∧
    (asked [.host (.readCore 3#15)]).inputs = .host (.readCore 3#15) :: [] ∧
    (3#15).toNat < busy.coreSize ∧ busy.coreSize ≤ (4#15).toNat := by decide

theorem witness_HostResetKeepsCore : (asked [.host .reset]).inputs = .host .reset :: [] := by decide

theorem witness_LoadAfterStoreReloads :
    (∃ t u, exec (.sto 3#15) busy = .next t ∧ exec (.cla 3#15) t = .next u) ∧
    (∃ t u, exec (.stq 0#15) busy = .next t ∧ exec (.ldq 0#15) t = .next u) :=
  ⟨⟨_, _, rfl, rfl⟩, ⟨_, _, rfl, rfl⟩⟩

theorem witness_SubAfterAddRestores :
    (∃ t u, exec (.add 3#15) busy = .next t ∧ exec (.sub 3#15) t = .next u) ∧
    (∃ t u, exec (.sub 3#15) busy = .next t ∧ exec (.add 3#15) t = .next u) ∧
    (∃ t u, exec (.adm 3#15) busy = .next t ∧ exec (.sbm 3#15) t = .next u) ∧
    (∃ t u, exec (.sbm 3#15) busy = .next t ∧ exec (.adm 3#15) t = .next u) :=
  ⟨⟨_, _, rfl, rfl⟩, ⟨_, _, rfl, rfl⟩, ⟨_, _, rfl, rfl⟩, ⟨_, _, rfl, rfl⟩⟩

/-- Both signs, and the operand equal to the accumulator's magnitude or one above it. -/
theorem witness_RawArithmeticAgainstSigned :
    [(0x0000000005#38, 0x000000005#36), (0x0000000005#38, 0x800000006#36), (0x2000000005#38, 0x000000005#36),
      (0x2000000005#38, 0x800000006#36)].map
        (fun p => (p.1.getLsbD 36, p.1.getLsbD 35, after (exec (.adm 0#15) (given p.1 0#36 [(0, p.2)])) (·.ac),
          after (exec (.sbm 0#15) (given p.1 0#36 [(0, p.2)])) (·.ac))) =
      [(false, false, some 0x000000000A#38, some 0x0000000000#38),
       (false, false, some 0x000000000B#38, some 0x3FFFFFFFFF#38),
       (false, false, some 0x200000000A#38, some 0x2000000000#38),
       (false, false, some 0x200000000B#38, some 0x1FFFFFFFFF#38)] := by decide

theorem witness_MprRoundsProduct :
    ∃ t, exec (.mpy 0#15) (given 0#38 3#36 [(0, 0x400000000#36)]) = .next t := ⟨_, rfl⟩

/-- DVH and DVP at both sides of the overflow condition: divisor 7 and 8 against `AC.M = 7` (95_test_vectors E10). -/
theorem witness_DivideClauses :
    (7#36).toNat % 2 ^ 35 ≤ (7#38).toNat % 2 ^ 35 ∧ (7#38).toNat % 2 ^ 35 < (8#36).toNat % 2 ^ 35 ∧
    after (exec (.dvh 0#15) (given 7#38 99#36 [(0, 8#36)])) (·.mq) = some 0x70000000C#36 ∧
    after (exec (.dvh 0#15) (given 7#38 99#36 [(0, 7#36)])) (·.mq) = some 99#36 := by decide

theorem witness_DivideIdentity :
    (∃ t, exec (.dvh 0#15) (given 7#38 99#36 [(0, 8#36)]) = .next t) ∧
    ((given 7#38 99#36 [(0, 8#36)]).ac.toNat % 2 ^ 35 <
      ((given 7#38 99#36 [(0, 8#36)]).readWord (0#15).toNat).toNat % 2 ^ 35) :=
  ⟨⟨_, rfl⟩, by decide⟩

theorem witness_DivideAfterMultiplyRestores :
    ((given 0#38 7#36 [(0, 0x800000006#36)]).readWord (0#15).toNat).toNat % 2 ^ 35 ≠ 0 ∧
    ∃ t u, exec (.mpy 0#15) (given 0#38 7#36 [(0, 0x800000006#36)]) = .next t ∧ exec (.dvp 0#15) t = .next u :=
  ⟨by decide, _, _, rfl, rfl⟩

theorem witness_NoCommandClearsAFlag :
    (∃ t, exec .clearAll busy = .next t) ∧ busy.readFlag .halt = true := ⟨⟨_, rfl⟩, by decide⟩

/-- A DVH on divide overflow changes both flags; a DVP changes one. -/
theorem witness_OnlyDivideOverflowWritesFlags :
    after (exec (.dvh 0#15) (given 7#38 0#36 [(0, 7#36)]))
      (fun t => (t.readFlag .divideCheck, t.readFlag .halt)) = some (true, true) ∧
    after (exec (.dvp 0#15) (given 7#38 0#36 [(0, 7#36)]))
      (fun t => (t.readFlag .divideCheck, t.readFlag .halt)) = some (true, false) ∧
    ((given 7#38 0#36 [(0, 7#36)]).readWord (0#15).toNat).toNat % 2 ^ 35 ≤ (7#38).toNat % 2 ^ 35 := by decide

theorem witness_EngineReadsNoStorageRegister : Register.ilc ≠ .ac ∧ Register.ilc ≠ .mq := by decide

theorem witness_StorageRegistersWrittenByClearsOnly :
    (after (exec .clearArith busy) (·.sr)) = some 0#36 ∧ busy.sr ≠ 0#36 ∧
    (after (exec .clearProg busy) (·.ilc)) = some 0#15 ∧ busy.ilc ≠ 0#15 := by decide

theorem witness_MemoryChangedByStoresOnly :
    after (exec (.sto 3#15) (given 1#38 0#36 [(3, 2#36)])) (·.readWord 3) = some 1#36 ∧
    (given 1#38 0#36 [(3, 2#36)]).readWord 3 ≠ 1#36 := by decide

theorem witness_ConstructionParametersAreFixed :
    ∃ t, step (asked [.host .reset]) = .next t := ⟨_, rfl⟩

end Sys2Proof.Tests
end

section
/-!
The decoder's answer, tag by tag (30_encoding R96 to R98): which tags select a command, and that a selected command
carries the address field of its word exactly when it is of format M (R94, R95).
-/

namespace Sys2Proof

theorem decodeTag_of_le {tag : Nat} (h : 28 ≤ tag) (y : Addr) : decodeTag tag y = none := by
  obtain ⟨k, rfl⟩ := Nat.exists_eq_add_of_le' h
  rfl

theorem decodeTag_of_lt {tag : Nat} (h : tag < 28) (y : Addr) :
    ∃ i, decodeTag tag y = some i ∧ i.address? = if i.format = .M then some y else none := by
  interval_cases tag <;> exact ⟨_, rfl, rfl⟩

theorem decode_of_tag_le {w : Command} (h : 28 ≤ (tagField w).toNat) :
    decode w = .error (.unsupportedOpcode (tagField w)) := by
  simp [decode, decodeTag_of_le h]

theorem decode_of_tag_lt {w : Command} (h : (tagField w).toNat < 28) :
    ∃ i, decode w = .ok i ∧ i.address? = if i.format = .M then some (addrField w) else none := by
  obtain ⟨i, hi, haddr⟩ := decodeTag_of_lt h (addrField w)
  exact ⟨i, by simp [decode, hi], haddr⟩

end Sys2Proof
end

section
/-!
The one check there is (20_memory R64, 30_encoding R101), said once for a command and for a host access: an action
that names a core word ends in a violation when the address is not valid, and every other action completes.
-/

namespace Sys2Proof.Machine

/-- Every address that an action names is a valid one; an action that names none meets this. -/
abbrev AddressInRange (a? : Option Addr) (s : State) : Prop := ∀ y ∈ a?, y.toNat < s.coreSize

/-- The answer of an action that completes in `t` once the address it names, if it names one, has been checked. -/
def addressChecked (who : Requester) (a? : Option Addr) (s t : State) : Result :=
  match a? with
  | some y => withValidAddress who y s (.next t)
  | none => .next t

theorem addressChecked_of_inRange {who : Requester} {a? : Option Addr} {s : State} (h : AddressInRange a? s)
    (t : State) : addressChecked who a? s t = .next t := by
  cases a? with
  | none => rfl
  | some y => exact withValidAddress_of_lt (h y rfl) _

theorem addressChecked_of_le {who : Requester} {y : Addr} {s : State} (h : s.coreSize ≤ y.toNat) (t : State) :
    addressChecked who (some y) s t = .fault (.addressOutOfRange who y) :=
  withValidAddress_of_le h _

/-- Everything a checked action can answer with a next state. -/
theorem addressChecked_next {who : Requester} {a? : Option Addr} {s t u : State}
    (h : addressChecked who a? s u = .next t) : AddressInRange a? s ∧ t = u := by
  cases a? with
  | none =>
    injection h with h
    exact ⟨fun _ hy => absurd hy (Option.not_mem_none _), h.symm⟩
  | some y =>
    obtain ⟨hy, rfl⟩ := withValidAddress_next h
    exact ⟨fun _ hz => Option.some.inj hz ▸ hy, rfl⟩

/-- The core address that a host access names, where it names one (46_bulk_and_host R226). -/
def HostAccess.address? : HostAccess → Option Addr
  | .readCore a => some a
  | .writeCore a _ => some a
  | .readRegister _ | .readFlag _ | .writeRegister _ _ | .writeFlag _ _ | .reset => none

theorem HostAccess.address?_eq_some_iff {h : HostAccess} {a : Addr} :
    h.address? = some a ↔ h = .readCore a ∨ ∃ v, h = .writeCore a v := by
  cases h <;> simp [HostAccess.address?]

theorem wellFormed_iff {i : Instr} {s : State} :
    i.wellFormed s.coreSize = true ↔ AddressInRange i.address? s := by
  cases h : i.address? <;> simp [Instr.wellFormed, AddressInRange, h]

theorem wellFormed_eq_false_iff {i : Instr} {s : State} :
    i.wellFormed s.coreSize = false ↔ ∃ y, i.address? = some y ∧ s.coreSize ≤ y.toNat := by
  cases h : i.address? <;> simp [Instr.wellFormed, h]

/-! ### What an action can do to the construction parameters and to core memory -/

/-- The three things an action can do to a core memory of `size` words: leave it, give one valid word a value, or
clear every word. -/
inductive MemoryUpdate (size : Nat) (m : Memory) : Memory → Prop where
  | kept : MemoryUpdate size m m
  | stored {a : Nat} (v : Word36) (ha : a < size) : MemoryUpdate size m (Memory.write m a v)
  | cleared : MemoryUpdate size m (Memory.zeros 0 size)

theorem MemoryUpdate.wf {size : Nat} {m m' : Memory} (u : MemoryUpdate size m m') (h : Memory.wf size m = true) :
    Memory.wf size m' = true := by
  cases u with
  | kept => exact h
  | stored v ha => exact Memory.wf_write v ha h
  | cleared => exact Memory.wf_zeros size

/-- What every completed action keeps to: the construction parameters stay, and core memory changes in one of the
three ways. Registers, flags and the caller's further actions are left open. -/
structure LegalUpdate (s t : State) : Prop where
  coreSize : t.coreSize = s.coreSize
  verbose : t.verbose = s.verbose
  memory : MemoryUpdate s.coreSize s.core t.core

/-- An action that leaves core memory alone. -/
theorem LegalUpdate.of_core_eq {s t : State} (hsize : t.coreSize = s.coreSize) (hverbose : t.verbose = s.verbose)
    (hcore : t.core = s.core) : LegalUpdate s t :=
  ⟨hsize, hverbose, hcore ▸ .kept⟩

theorem LegalUpdate.writeWord {s : State} {a : Nat} (v : Word36) (ha : a < s.coreSize) :
    LegalUpdate s (s.writeWord a v) :=
  ⟨rfl, rfl, .stored v ha⟩

theorem LegalUpdate.wf {s t : State} (u : LegalUpdate s t) (h : s.wf) : t.wf := by
  obtain ⟨hlegal, hmem⟩ := h
  rw [State.wf, u.coreSize]
  exact ⟨hlegal, u.memory.wf hmem⟩

@[simp] theorem divide_verbose (halts : Bool) (w : Word36) (s : State) : (divide halts w s).verbose = s.verbose := by
  rcases divide_cases halts w s with ⟨-, h⟩ | ⟨-, q, r, h⟩ <;> simp [h]

theorem LegalUpdate.divide (halts : Bool) (w : Word36) (s : State) : LegalUpdate s (divide halts w s) :=
  .of_core_eq (divide_coreSize halts w s) (divide_verbose halts w s) (divide_core halts w s)

/-! ### Every command and every host access is a checked legal update -/

/-- Everything a command can answer: its own next state, behind the check of its address where it has one. -/
theorem exec_eq_addressChecked (i : Instr) (s : State) :
    ∃ t, exec i s = addressChecked (.command i) i.address? s t ∧
      (AddressInRange i.address? s → LegalUpdate s t) := by
  cases i with
  | cla y => exact ⟨_, exec_cla y s, fun _ => .of_core_eq rfl rfl rfl⟩
  | cls y => exact ⟨_, exec_cls y s, fun _ => .of_core_eq rfl rfl rfl⟩
  | ldq y => exact ⟨_, exec_ldq y s, fun _ => .of_core_eq rfl rfl rfl⟩
  | sto y => exact ⟨_, exec_sto y s, fun h => .writeWord _ (h y rfl)⟩
  | stq y => exact ⟨_, exec_stq y s, fun h => .writeWord _ (h y rfl)⟩
  | slq y => exact ⟨_, exec_slq y s, fun h => .writeWord _ (h y rfl)⟩
  | stp y => exact ⟨_, exec_stp y s, fun h => .writeWord _ (h y rfl)⟩
  | std y => exact ⟨_, exec_std y s, fun h => .writeWord _ (h y rfl)⟩
  | sta y => exact ⟨_, exec_sta y s, fun h => .writeWord _ (h y rfl)⟩
  | clm => exact ⟨_, exec_clm s, fun _ => .of_core_eq rfl rfl rfl⟩
  | chs => exact ⟨_, exec_chs s, fun _ => .of_core_eq rfl rfl rfl⟩
  | ssp => exact ⟨_, exec_ssp s, fun _ => .of_core_eq rfl rfl rfl⟩
  | ssm => exact ⟨_, exec_ssm s, fun _ => .of_core_eq rfl rfl rfl⟩
  | cal y => exact ⟨_, exec_cal y s, fun _ => .of_core_eq rfl rfl rfl⟩
  | acl y => exact ⟨_, exec_acl y s, fun _ => .of_core_eq rfl rfl rfl⟩
  | add y => exact ⟨_, exec_add y s, fun _ => .of_core_eq rfl rfl rfl⟩
  | adm y => exact ⟨_, exec_adm y s, fun _ => .of_core_eq rfl rfl rfl⟩
  | sub y => exact ⟨_, exec_sub y s, fun _ => .of_core_eq rfl rfl rfl⟩
  | sbm y => exact ⟨_, exec_sbm y s, fun _ => .of_core_eq rfl rfl rfl⟩
  | rnd => exact ⟨_, exec_rnd s, fun _ => .of_core_eq rfl rfl rfl⟩
  | mpy y => exact ⟨_, exec_mpy y s, fun _ => .of_core_eq rfl rfl rfl⟩
  | mpr y => exact ⟨_, exec_mpr y s, fun _ => .of_core_eq rfl rfl rfl⟩
  | dvh y => exact ⟨_, exec_dvh y s, fun _ => .divide true _ s⟩
  | dvp y => exact ⟨_, exec_dvp y s, fun _ => .divide false _ s⟩
  | clearCore => exact ⟨_, exec_clearCore s, fun _ => ⟨rfl, rfl, .cleared⟩⟩
  | clearArith => exact ⟨_, exec_clearArith s, fun _ => .of_core_eq rfl rfl rfl⟩
  | clearProg => exact ⟨_, exec_clearProg s, fun _ => .of_core_eq rfl rfl rfl⟩
  | clearAll => exact ⟨_, exec_clearAll s, fun _ => .of_core_eq rfl rfl rfl⟩

/-- Everything a host access can answer: its own next state, behind the check of its address where it has one. -/
theorem hostAccess_eq_addressChecked (h : HostAccess) (s : State) :
    ∃ t, hostAccess h s = addressChecked (.host h) h.address? s t ∧
      (AddressInRange h.address? s → LegalUpdate s t) := by
  cases h with
  | readRegister r => exact ⟨s, rfl, fun _ => .of_core_eq rfl rfl rfl⟩
  | readFlag f => exact ⟨s, rfl, fun _ => .of_core_eq rfl rfl rfl⟩
  | readCore a => exact ⟨s, rfl, fun _ => .of_core_eq rfl rfl rfl⟩
  | writeRegister r v => exact ⟨s.writeRegister r v, rfl, fun _ => .of_core_eq (by simp) (by simp) (by simp)⟩
  | writeFlag f b => exact ⟨s.setFlags (s.flags.write f b), rfl, fun _ => .of_core_eq rfl rfl rfl⟩
  | writeCore a w => exact ⟨s.writeWord a.toNat w, rfl, fun hin => .writeWord w (hin a rfl)⟩
  | reset => exact ⟨s.hostReset, rfl, fun _ => .of_core_eq rfl rfl rfl⟩

theorem exec_of_inRange {i : Instr} {s : State} (h : AddressInRange i.address? s) : ∃ t, exec i s = .next t := by
  obtain ⟨t, ht, -⟩ := exec_eq_addressChecked i s
  exact ⟨t, ht.trans (addressChecked_of_inRange h t)⟩

theorem exec_of_le {i : Instr} {y : Addr} {s : State} (hy : i.address? = some y) (h : s.coreSize ≤ y.toNat) :
    exec i s = .fault (.addressOutOfRange (.command i) y) := by
  obtain ⟨t, ht, -⟩ := exec_eq_addressChecked i s
  rw [ht, hy, addressChecked_of_le h]

theorem hostAccess_of_inRange {h : HostAccess} {s : State} (hin : AddressInRange h.address? s) :
    ∃ t, hostAccess h s = .next t := by
  obtain ⟨t, ht, -⟩ := hostAccess_eq_addressChecked h s
  exact ⟨t, ht.trans (addressChecked_of_inRange hin t)⟩

theorem hostAccess_of_le {h : HostAccess} {a : Addr} {s : State} (ha : h.address? = some a)
    (hle : s.coreSize ≤ a.toNat) : hostAccess h s = .fault (.addressOutOfRange (.host h) a) := by
  obtain ⟨t, ht, -⟩ := hostAccess_eq_addressChecked h s
  rw [ht, ha, addressChecked_of_le hle]

theorem exec_legalUpdate {i : Instr} {s t : State} (h : exec i s = .next t) : LegalUpdate s t := by
  obtain ⟨u, hu, hlegal⟩ := exec_eq_addressChecked i s
  obtain ⟨hin, rfl⟩ := addressChecked_next (hu.symm.trans h)
  exact hlegal hin

theorem hostAccess_legalUpdate {a : HostAccess} {s t : State} (h : hostAccess a s = .next t) : LegalUpdate s t := by
  obtain ⟨u, hu, hlegal⟩ := hostAccess_eq_addressChecked a s
  obtain ⟨hin, rfl⟩ := addressChecked_next (hu.symm.trans h)
  exact hlegal hin

theorem runCommand_legalUpdate {w : Command} {s t : State} (h : runCommand w s = .next t) : LegalUpdate s t := by
  cases hd : decode w with
  | ok i => exact exec_legalUpdate ((runCommand_of_ok hd s).symm.trans h)
  | error e => cases (runCommand_of_error hd s).symm.trans h

/-- Taking the caller's action off the list touches neither the parameters nor core memory. -/
theorem LegalUpdate.of_setInputs {s t : State} {l : List Input} (u : LegalUpdate (s.setInputs l) t) :
    LegalUpdate s t :=
  ⟨u.coreSize, u.verbose, u.memory⟩

/-- The central fact of the two invariants below: every step is a legal update. -/
theorem step_legalUpdate {s t : State} (h : step s = .next t) : LegalUpdate s t := by
  rcases step_cases s with ⟨-, hs⟩ | ⟨w, rest, -, hs⟩ | ⟨a, rest, -, hs⟩
  · cases hs.symm.trans h
    exact .of_core_eq rfl rfl rfl
  · exact (runCommand_legalUpdate (hs.symm.trans h)).of_setInputs
  · exact (hostAccess_legalUpdate (hs.symm.trans h)).of_setInputs

/-! ### What a step answers, by the caller's next action -/

theorem step_of_nil {s : State} (h : s.inputs = []) : step s = .next s := by
  simp [step, State.takeInput_nil h, idle]

theorem step_of_command {s : State} {w : Command} {rest : List Input} (h : s.inputs = .command w :: rest) :
    step s = runCommand w (s.setInputs rest) := by
  simp [step, State.takeInput_cons h]

theorem step_of_host {s : State} {a : HostAccess} {rest : List Input} (h : s.inputs = .host a :: rest) :
    step s = hostAccess a (s.setInputs rest) := by
  simp [step, State.takeInput_cons h]

/-- A command word with a supported tag: it decodes, and its address stops it exactly when the format has one and it
is not valid (30_encoding R101, 60_exceptions R247). -/
theorem runCommand_of_tag_lt {w : Command} (htag : (tagField w).toNat < 28) (s : State) :
    ∃ i, decode w = .ok i ∧
      (i.format = .M ∧ s.coreSize ≤ (addrField w).toNat →
        runCommand w s = .fault (.addressOutOfRange (.command i) (addrField w))) ∧
      (¬(i.format = .M ∧ s.coreSize ≤ (addrField w).toNat) → ∃ t, runCommand w s = .next t) := by
  obtain ⟨i, hdecode, haddr⟩ := decode_of_tag_lt htag
  refine ⟨i, hdecode, ?_, ?_⟩ <;> rw [runCommand_of_ok hdecode]
  · rintro ⟨hformat, hle⟩
    rw [if_pos hformat] at haddr
    exact exec_of_le haddr hle
  · intro hok
    have hin : AddressInRange i.address? s := by
      intro y hy
      rw [haddr] at hy
      split at hy
      next hformat =>
        cases hy
        exact Nat.lt_of_not_le fun hle => hok ⟨hformat, hle⟩
      next => cases hy
    exact exec_of_inRange hin

/-! ### The obligations -/

/-- Settles O10: a legal update keeps the invariant, and every step is one. -/
theorem stepKeepsWellFormed : Obligations.StepKeepsWellFormed :=
  fun _ _ hwf hstep => (step_legalUpdate hstep).wf hwf

/-- Settles O13, by the caller's next action: none, a command word split at tag 28, or a host access. -/
theorem stepOutcomes : Obligations.StepOutcomes := by
  intro s
  refine ⟨step_of_nil, fun w rest hin => ?_, fun h rest hin => ?_⟩
  · rw [step_of_command hin, ← tagField_toNat, ← addrField_toNat]
    exact ⟨fun htag => runCommand_of_error (decode_of_tag_le htag) _,
      fun htag => runCommand_of_tag_lt htag (s.setInputs rest)⟩
  · simp only [step_of_host hin, ← HostAccess.address?_eq_some_iff]
    exact ⟨fun _ hle ha => hostAccess_of_le ha hle, fun hall => hostAccess_of_inRange hall⟩

/-- Settles O14: well-formedness is the range of the address, the one check that `exec` makes. -/
theorem wellFormedCommandsComplete : Obligations.WellFormedCommandsComplete := by
  intro i s
  refine ⟨fun h => exec_of_inRange (wellFormed_iff.1 h), fun h => ?_⟩
  obtain ⟨y, hy, hle⟩ := wellFormed_eq_false_iff.1 h
  exact ⟨y, hy, exec_of_le hy hle⟩

/-- Settles O60: a legal update leaves both parameters, and every step is one. -/
theorem constructionParametersAreFixed : Obligations.ConstructionParametersAreFixed :=
  fun _ _ hstep => ⟨(step_legalUpdate hstep).coreSize, (step_legalUpdate hstep).verbose⟩

/-- Settles O9: 8192 is a legal size, and the memory with nothing listed is canonical. -/
theorem resetIsWellFormed : Obligations.ResetIsWellFormed :=
  ⟨rfl, by decide, State.reset_memory_wf⟩

end Sys2Proof.Machine
end

section
/-!
What one command does to the state, said once for the rules of 10_state: every command makes one of six effects, and
which one, with the values it writes, is settled by AC, MQ, core memory and `CORE_SIZE`. The engine reads neither a flag
(R34) nor a register of storage (R23 to R26), and each effect shows which of these it writes (R31, R32).
-/

namespace Sys2Proof.Machine

/-- `u` with the parts of `s` that a command reads: AC, MQ, core memory and `CORE_SIZE`. -/
def State.withOperandsOf (u s : State) : State :=
  { u with ac := s.ac, mq := s.mq, core := s.core, coreSize := s.coreSize }

/-- What the command `i` does when it completes in `s`. Only a divide on divide overflow sets flags and only the three
register clears write a register of storage, so these effects carry the proof that `i` is that command. -/
inductive Effect (i : Instr) (s : State) : Type where
  | acMq (a : AcWord) (q : Word36)
  | memory (m : Memory)
  | divideOverflow (halts : Bool) (y : Addr)
      (hle : (s.readWord y.toNat).toNat % 2 ^ 35 ≤ s.ac.toNat % 2 ^ 35) (hi : i = if halts then .dvh y else .dvp y)
  | clearArith (hi : i = .clearArith)
  | clearProg (hi : i = .clearProg)
  | clearAll (hi : i = .clearAll)

namespace Effect

variable {i : Instr} {s : State}

/-- The effect carried out on a state. -/
def apply : Effect i s → State → State
  | acMq a q, u => (u.setAc a).setMq q
  | memory m, u => u.setCore m
  | divideOverflow halts _ _ _, u => u.setFlags (divideOverflowFlags u.flags halts)
  | clearArith _, u => clearArithRegisters u
  | clearProg _, u => clearProgRegisters u
  | clearAll _, u => clearProgRegisters (clearArithRegisters u)

/-- The flags that the effect sets. -/
def written : Effect i s → List Flag
  | divideOverflow halts _ _ _ => if halts then [.divideCheck, .halt] else [.divideCheck]
  | _ => []

/-- The registers other than AC and MQ that the effect clears. -/
def cleared : Effect i s → List Register
  | clearArith _ => [.sr]
  | clearProg _ | clearAll _ => [.sr, .xr1, .xr2, .xr3, .ilc, .ir]
  | _ => []

/-- A flag after the effect: it was set before, or the effect sets it. -/
theorem readFlag_apply (e : Effect i s) (u : State) (f : Flag) :
    (e.apply u).readFlag f = (u.readFlag f || decide (f ∈ e.written)) := by
  cases e with
  | divideOverflow halts y hle hi =>
    rw [apply, State.readFlag_setFlags, divideOverflowFlags_read]
    cases halts <;> simp [written, State.readFlag, Bool.or_assoc]
  | _ => exact (Bool.or_false _).symm

theorem mem_written_of_ne {e : Effect i s} {u : State} {f : Flag} (hne : (e.apply u).readFlag f ≠ u.readFlag f) :
    f ∈ e.written := by
  by_contra hf
  exact hne (by simp [readFlag_apply, hf])

/-- A flag set by an effect is set by a divide on divide overflow (10_state R31). -/
theorem of_mem_written {e : Effect i s} {f : Flag} (hf : f ∈ e.written) :
    ∃ y : Addr, (s.readWord y.toNat).toNat % 2 ^ 35 ≤ s.ac.toNat % 2 ^ 35 ∧
      (f = .divideCheck ∧ (i = .dvh y ∨ i = .dvp y) ∨ f = .halt ∧ i = .dvh y) := by
  cases e with
  | divideOverflow halts y hle hi =>
    refine ⟨y, hle, ?_⟩
    cases halts <;> simp_all [written]
  | _ => cases hf

/-- A register of storage after the effect: zero where the effect clears it, and otherwise what it was. -/
theorem readRegister_apply (e : Effect i s) (u : State) {r : Register} (hac : r ≠ .ac) (hmq : r ≠ .mq) :
    (e.apply u).readRegister r = if r ∈ e.cleared then 0 else u.readRegister r := by
  cases e <;> cases r <;> first | rfl | contradiction

theorem mem_cleared_of_ne {e : Effect i s} {u : State} {r : Register} (hac : r ≠ .ac) (hmq : r ≠ .mq)
    (hne : (e.apply u).readRegister r ≠ u.readRegister r) : r ∈ e.cleared := by
  by_contra hr
  exact hne (by rw [e.readRegister_apply u hac hmq, if_neg hr])

/-- SR is cleared by the three register clears alone (10_state R23). -/
theorem of_sr_mem_cleared {e : Effect i s} (h : .sr ∈ e.cleared) :
    i = .clearArith ∨ i = .clearProg ∨ i = .clearAll := by
  cases e with
  | clearArith hi => exact .inl hi
  | clearProg hi => exact .inr (.inl hi)
  | clearAll hi => exact .inr (.inr hi)
  | _ => cases h

/-- A register other than SR is cleared by CLEAR_PROG and CLEAR_ALL alone (10_state R24 to R26). -/
theorem of_mem_cleared {e : Effect i s} {r : Register} (hsr : r ≠ .sr) (h : r ∈ e.cleared) :
    i = .clearProg ∨ i = .clearAll := by
  cases e with
  | clearArith => exact absurd (List.mem_singleton.1 h) hsr
  | clearProg hi => exact .inl hi
  | clearAll hi => exact .inr hi
  | _ => cases h

/-- Two states that differ in flags alone differ in flags alone after the same effect. -/
theorem apply_setFlags (e : Effect i s) (u : State) (b : FlagBank) :
    e.apply (u.setFlags b) = (e.apply u).setFlags (e.apply (u.setFlags b)).flags := by
  cases e <;> rfl

/-- The same effect on two states keeps them alike wherever they were. -/
theorem apply_frame (e : Effect i s) {regs : List Register} {flags : List Flag} {stored : Nat → Prop} {u v : State}
    (h : Frame regs flags stored u v) : Frame regs flags stored (e.apply u) (e.apply v) where
  registers r hr := by
    cases e <;> cases r <;> first | rfl | exact h.registers _ hr
  flagBank f hf := by
    rw [readFlag_apply, readFlag_apply, h.flagBank f hf]
  memory a ha := by
    cases e <;> first | rfl | exact h.memory a ha
  coreSize := by cases e <;> exact h.coreSize
  verbose := by cases e <;> exact h.verbose
  inputs := by cases e <;> exact h.inputs

end Effect

/-! ### Every command is an effect of what it reads -/

theorem divide_eq_effect {i : Instr} (halts : Bool) (y : Addr) (s : State)
    (hi : i = if halts then .dvh y else .dvp y) : ∃ e : Effect i s,
      divide halts (s.readWord y.toNat) s = e.apply s ∧
      ∀ u : State, divide halts (s.readWord y.toNat) (u.withOperandsOf s) = e.apply (u.withOperandsOf s) := by
  by_cases h : (wordMag (s.readWord y.toNat)).toNat ≤ (acMag s.ac).toNat
  · exact ⟨.divideOverflow halts y (by simpa using h) hi, if_pos h, fun _ => if_pos h⟩
  · exact ⟨.acMq _ _, if_neg h, fun _ => if_neg h⟩

/-- The central fact of the rules below: behind its address check a command makes one effect, in `s` and in every state
with the operands of `s`, whatever that state holds elsewhere. -/
theorem exec_eq_effect (i : Instr) (s : State) : ∃ e : Effect i s,
    exec i s = addressChecked (.command i) i.address? s (e.apply s) ∧
    ∀ u : State, exec i (u.withOperandsOf s) =
      addressChecked (.command i) i.address? s (e.apply (u.withOperandsOf s)) := by
  cases i with
  | cla y => exact ⟨.acMq _ s.mq, exec_cla y s, fun u => exec_cla y (u.withOperandsOf s)⟩
  | cls y => exact ⟨.acMq _ s.mq, exec_cls y s, fun u => exec_cls y (u.withOperandsOf s)⟩
  | ldq y => exact ⟨.acMq s.ac _, exec_ldq y s, fun u => exec_ldq y (u.withOperandsOf s)⟩
  | sto y => exact ⟨.memory _, exec_sto y s, fun u => exec_sto y (u.withOperandsOf s)⟩
  | stq y => exact ⟨.memory _, exec_stq y s, fun u => exec_stq y (u.withOperandsOf s)⟩
  | slq y => exact ⟨.memory _, exec_slq y s, fun u => exec_slq y (u.withOperandsOf s)⟩
  | stp y => exact ⟨.memory _, exec_stp y s, fun u => exec_stp y (u.withOperandsOf s)⟩
  | std y => exact ⟨.memory _, exec_std y s, fun u => exec_std y (u.withOperandsOf s)⟩
  | sta y => exact ⟨.memory _, exec_sta y s, fun u => exec_sta y (u.withOperandsOf s)⟩
  | clm => exact ⟨.acMq _ s.mq, exec_clm s, fun u => exec_clm (u.withOperandsOf s)⟩
  | chs => exact ⟨.acMq _ s.mq, exec_chs s, fun u => exec_chs (u.withOperandsOf s)⟩
  | ssp => exact ⟨.acMq _ s.mq, exec_ssp s, fun u => exec_ssp (u.withOperandsOf s)⟩
  | ssm => exact ⟨.acMq _ s.mq, exec_ssm s, fun u => exec_ssm (u.withOperandsOf s)⟩
  | cal y => exact ⟨.acMq _ s.mq, exec_cal y s, fun u => exec_cal y (u.withOperandsOf s)⟩
  | acl y => exact ⟨.acMq _ s.mq, exec_acl y s, fun u => exec_acl y (u.withOperandsOf s)⟩
  | add y => exact ⟨.acMq _ s.mq, exec_add y s, fun u => exec_add y (u.withOperandsOf s)⟩
  | adm y => exact ⟨.acMq _ s.mq, exec_adm y s, fun u => exec_adm y (u.withOperandsOf s)⟩
  | sub y => exact ⟨.acMq _ s.mq, exec_sub y s, fun u => exec_sub y (u.withOperandsOf s)⟩
  | sbm y => exact ⟨.acMq _ s.mq, exec_sbm y s, fun u => exec_sbm y (u.withOperandsOf s)⟩
  | rnd => exact ⟨.acMq _ s.mq, exec_rnd s, fun u => exec_rnd (u.withOperandsOf s)⟩
  | mpy y => exact ⟨.acMq _ _, exec_mpy y s, fun u => exec_mpy y (u.withOperandsOf s)⟩
  | mpr y => exact ⟨.acMq _ _, exec_mpr y s, fun u => exec_mpr y (u.withOperandsOf s)⟩
  | dvh y =>
    obtain ⟨e, hs, hu⟩ := divide_eq_effect true y s rfl
    exact ⟨e, hs ▸ exec_dvh y s, fun u => hu u ▸ exec_dvh y (u.withOperandsOf s)⟩
  | dvp y =>
    obtain ⟨e, hs, hu⟩ := divide_eq_effect false y s rfl
    exact ⟨e, hs ▸ exec_dvp y s, fun u => hu u ▸ exec_dvp y (u.withOperandsOf s)⟩
  | clearCore => exact ⟨.memory _, exec_clearCore s, fun u => exec_clearCore (u.withOperandsOf s)⟩
  | clearArith => exact ⟨.clearArith rfl, exec_clearArith s, fun u => exec_clearArith (u.withOperandsOf s)⟩
  | clearProg => exact ⟨.clearProg rfl, exec_clearProg s, fun u => exec_clearProg (u.withOperandsOf s)⟩
  | clearAll => exact ⟨.clearAll rfl, exec_clearAll s, fun u => exec_clearAll (u.withOperandsOf s)⟩

theorem exec_next_effect {i : Instr} {s t : State} (h : exec i s = .next t) : ∃ e : Effect i s, t = e.apply s := by
  obtain ⟨e, he, -⟩ := exec_eq_effect i s
  exact ⟨e, (addressChecked_next (he.symm.trans h)).2⟩

/-- The address check does not ask what the action would do: it lets every next state pass, or none. -/
theorem addressChecked_uniform (who : Requester) (a? : Option Addr) (s : State) :
    (∀ t, addressChecked who a? s t = .next t) ∨ ∃ e, ∀ t, addressChecked who a? s t = .fault e := by
  by_cases h : AddressInRange a? s
  · exact .inl (addressChecked_of_inRange h)
  · obtain ⟨y, rfl, hy⟩ : ∃ y, a? = some y ∧ ¬ y.toNat < s.coreSize := by simpa [AddressInRange] using h
    exact .inr ⟨_, addressChecked_of_le (Nat.le_of_not_lt hy)⟩

/-- Two runs of a command in states with the same operands: both make the same effect, or both end with the same
violation. -/
theorem exec_withOperandsOf (i : Instr) (s u : State) :
    (∃ e : Effect i s, exec i s = .next (e.apply s) ∧
      exec i (u.withOperandsOf s) = .next (e.apply (u.withOperandsOf s))) ∨
    ∃ v, exec i s = .fault v ∧ exec i (u.withOperandsOf s) = .fault v := by
  obtain ⟨e, hs, hu⟩ := exec_eq_effect i s
  rcases addressChecked_uniform (.command i) i.address? s with hnext | ⟨v, hfault⟩
  · exact .inl ⟨e, hs.trans (hnext _), (hu u).trans (hnext _)⟩
  · exact .inr ⟨v, hs.trans (hfault _), (hu u).trans (hfault _)⟩

theorem State.replaceFlags_withOperandsOf (s : State) (b : FlagBank) :
    State.withOperandsOf { s with flags := b } s = { s with flags := b } := rfl

theorem State.writeRegister_withOperandsOf (s : State) {r : Register} (v : BitVec r.width) (hac : r ≠ .ac)
    (hmq : r ≠ .mq) : (s.writeRegister r v).withOperandsOf s = s.writeRegister r v := by
  cases r <;> first | rfl | contradiction

theorem State.frame_writeRegister (s : State) (r : Register) (v : BitVec r.width) :
    Frame [r] [] noWord s (s.writeRegister r v) where
  registers _ hr := State.readRegister_writeRegister_other s v (List.ne_of_not_mem_cons hr)
  flagBank f _ := congrArg (·.read f) (State.writeRegister_flags s r v)
  memory a _ := congrArg (Memory.read · a) (State.writeRegister_core s r v)
  coreSize := State.writeRegister_coreSize s r v
  verbose := State.writeRegister_verbose s r v
  inputs := State.writeRegister_inputs s r v

theorem readFlag_divide_of_overflow {w : Word36} {s : State} (h : w.toNat % 2 ^ 35 ≤ s.ac.toNat % 2 ^ 35)
    (halts : Bool) (f : Flag) : (divide halts w s).readFlag f =
      (s.readFlag f || decide (f = .divideCheck) || (halts && decide (f = .halt))) := by
  rcases divide_cases halts w s with ⟨-, heq⟩ | ⟨hlt, -⟩
  · rw [heq, State.readFlag_setFlags, divideOverflowFlags_read, State.readFlag]
  · exact absurd h (Nat.not_le.2 hlt)

/-! ### The obligations -/

/-- Settles O54: an effect only ever sets flags. -/
theorem noCommandClearsAFlag : Obligations.NoCommandClearsAFlag := by
  intro i s t f hexec hf
  obtain ⟨e, rfl⟩ := exec_next_effect hexec
  rw [e.readFlag_apply, hf, Bool.true_or]

/-- Settles O55: a flag that changed is one that the effect sets, and a divide overflow sets its flags. -/
theorem onlyDivideOverflowWritesFlags : Obligations.OnlyDivideOverflowWritesFlags := by
  refine ⟨fun i s t f hexec hne => ?_, fun y s t hle => ⟨fun hexec => ?_, fun hexec => ?_⟩⟩
  · obtain ⟨e, rfl⟩ := exec_next_effect hexec
    have hf := Effect.mem_written_of_ne hne
    obtain ⟨y, hle, hwho⟩ := Effect.of_mem_written hf
    exact ⟨y, hle, by simp [e.readFlag_apply, hf], hwho⟩
  · obtain ⟨-, rfl⟩ := withValidAddress_next ((exec_dvh y s).symm.trans hexec)
    simp [readFlag_divide_of_overflow hle]
  · obtain ⟨-, rfl⟩ := withValidAddress_next ((exec_dvp y s).symm.trans hexec)
    simp [readFlag_divide_of_overflow hle]

/-- Settles O56: a state with other flags has the same operands, so the same effect, which sets the same flags. -/
theorem engineReadsNoFlag : Obligations.EngineReadsNoFlag := by
  intro i s b
  have hruns := exec_withOperandsOf i s { s with flags := b }
  rw [s.replaceFlags_withOperandsOf b] at hruns
  rcases hruns with ⟨e, hs, hb⟩ | ⟨v, hs, hb⟩
  · rw [hs, hb]
    exact ⟨e.apply_setFlags s b, e.written, e.readFlag_apply s, e.readFlag_apply (s.setFlags b)⟩
  · rw [hs, hb]

/-- Settles O57: a state with another value in a register of storage has the same operands, so the same effect, which
keeps the two states alike everywhere else. -/
theorem engineReadsNoStorageRegister : Obligations.EngineReadsNoStorageRegister := by
  intro i s r v hac hmq
  have hruns := exec_withOperandsOf i s (s.writeRegister r v)
  rw [s.writeRegister_withOperandsOf v hac hmq] at hruns
  rcases hruns with ⟨e, hs, hv⟩ | ⟨w, hs, hv⟩
  · rw [hs, hv]
    exact e.apply_frame (s.frame_writeRegister r v)
  · rw [hs, hv]

/-- Settles O58: a register of storage that changed is one that the effect clears. -/
theorem storageRegistersWrittenByClearsOnly : Obligations.StorageRegistersWrittenByClearsOnly := by
  intro i s t hexec
  obtain ⟨e, rfl⟩ := exec_next_effect hexec
  refine ⟨fun hne => ?_, fun r hr hne => ?_⟩
  · exact Effect.of_sr_mem_cleared (Effect.mem_cleared_of_ne (r := .sr) (by decide) (by decide) hne)
  · have hother : r ≠ .ac ∧ r ≠ .mq ∧ r ≠ .sr := by
      rcases hr with rfl | rfl | rfl | rfl | rfl <;> decide
    obtain ⟨hac, hmq, hsr⟩ := hother
    exact Effect.of_mem_cleared hsr (Effect.mem_cleared_of_ne hac hmq hne)

/-- Settles O8: a constructed machine is zero and false throughout, and its memory lists no word. -/
theorem constructionClearsRegistersAndFlags : Obligations.ConstructionClearsRegistersAndFlags := by
  intro n b
  refine ⟨fun r => ?_, FlagBank.cleared_read, rfl, rfl, Memory.read_nil⟩
  cases r <;> rfl

end Sys2Proof.Machine
end

section
/-!
Which commands write core memory, and where (20_memory R66): the six stores give the word at their own address a value,
CLEAR_CORE clears every word, and every other command leaves core memory as it was.
-/

namespace Sys2Proof

/-- The core address that a command stores to, where it is one of the six stores (20_memory R66). CLEAR_CORE, which
names no address, is none of them. -/
def Instr.storeAddress? : Instr → Option Addr
  | .sto y | .stq y | .slq y | .stp y | .std y | .sta y => some y
  | _ => none

theorem Instr.storeAddress?_eq_some_iff {i : Instr} {y : Addr} : i.storeAddress? = some y ↔
    i = .sto y ∨ i = .stq y ∨ i = .slq y ∨ i = .stp y ∨ i = .std y ∨ i = .sta y := by
  cases i <;> simp [Instr.storeAddress?]

end Sys2Proof

namespace Sys2Proof.Machine

/-- A store, whatever the word it forms, is one checked write at its own address. -/
theorem exec_of_storeAddress {i : Instr} {y : Addr} (h : i.storeAddress? = some y) (s : State) :
    ∃ v, exec i s = withValidAddress (.command i) y s (.next (s.writeWord y.toNat v)) := by
  rcases Instr.storeAddress?_eq_some_iff.1 h with rfl | rfl | rfl | rfl | rfl | rfl
  · exact ⟨_, exec_sto y s⟩
  · exact ⟨_, exec_stq y s⟩
  · exact ⟨_, exec_slq y s⟩
  · exact ⟨_, exec_stp y s⟩
  · exact ⟨_, exec_std y s⟩
  · exact ⟨_, exec_sta y s⟩

/-- A command that is neither a store nor CLEAR_CORE answers, behind its address check, a state with the same core
memory. -/
theorem exec_eq_addressChecked_core {i : Instr} (hstore : i.storeAddress? = none) (hclear : i ≠ .clearCore)
    (s : State) : ∃ u, exec i s = addressChecked (.command i) i.address? s u ∧ u.core = s.core := by
  cases i with
  | sto y | stq y | slq y | stp y | std y | sta y => cases hstore
  | clearCore => exact absurd rfl hclear
  | cla y => exact ⟨_, exec_cla y s, rfl⟩
  | cls y => exact ⟨_, exec_cls y s, rfl⟩
  | ldq y => exact ⟨_, exec_ldq y s, rfl⟩
  | clm => exact ⟨_, exec_clm s, rfl⟩
  | chs => exact ⟨_, exec_chs s, rfl⟩
  | ssp => exact ⟨_, exec_ssp s, rfl⟩
  | ssm => exact ⟨_, exec_ssm s, rfl⟩
  | cal y => exact ⟨_, exec_cal y s, rfl⟩
  | acl y => exact ⟨_, exec_acl y s, rfl⟩
  | add y => exact ⟨_, exec_add y s, rfl⟩
  | adm y => exact ⟨_, exec_adm y s, rfl⟩
  | sub y => exact ⟨_, exec_sub y s, rfl⟩
  | sbm y => exact ⟨_, exec_sbm y s, rfl⟩
  | rnd => exact ⟨_, exec_rnd s, rfl⟩
  | mpy y => exact ⟨_, exec_mpy y s, rfl⟩
  | mpr y => exact ⟨_, exec_mpr y s, rfl⟩
  | dvh y => exact ⟨_, exec_dvh y s, divide_core true _ s⟩
  | dvp y => exact ⟨_, exec_dvp y s, divide_core false _ s⟩
  | clearArith => exact ⟨_, exec_clearArith s, rfl⟩
  | clearProg => exact ⟨_, exec_clearProg s, rfl⟩
  | clearAll => exact ⟨_, exec_clearAll s, rfl⟩

/-- Everything a completed command can do to core memory: leave it, store one word at its own address, or be
CLEAR_CORE. -/
theorem exec_next_core {i : Instr} {s t : State} (h : exec i s = .next t) :
    t.core = s.core ∨ (∃ y v, i.storeAddress? = some y ∧ t = s.writeWord y.toNat v) ∨ i = .clearCore := by
  by_cases hclear : i = .clearCore
  · exact .inr (.inr hclear)
  cases hstore : i.storeAddress? with
  | none =>
    obtain ⟨u, hu, hcore⟩ := exec_eq_addressChecked_core hstore hclear s
    obtain ⟨-, rfl⟩ := addressChecked_next (hu.symm.trans h)
    exact .inl hcore
  | some y =>
    obtain ⟨v, hv⟩ := exec_of_storeAddress hstore s
    exact .inr (.inl ⟨y, v, rfl, (withValidAddress_next (hv.symm.trans h)).2⟩)

/-- Settles O59: a word that reads otherwise was not kept, and of a stored word's memory only that word changes. -/
theorem memoryChangedByStoresOnly : Obligations.MemoryChangedByStoresOnly := by
  intro i s t a hexec hne
  rcases exec_next_core hexec with hcore | ⟨y, v, hstore, rfl⟩ | hclear
  · exact absurd (congrArg (Memory.read · a) hcore) hne
  · have ha : a = y.toNat := by
      by_contra hother
      exact hne (s.readWord_writeWord_other v hother)
    exact .inr ⟨y, ha, Instr.storeAddress?_eq_some_iff.1 hstore⟩
  · exact .inl hclear

end Sys2Proof.Machine
end

section
/-!
The decoder, the encoder and the opcode map agree (30_encoding R92 to R99): a command is its tag and the operand it
carries, the decoder reads both back, and a row of the map is selected by the tag of a word alone.
-/

namespace Sys2Proof

/-! ### The decoder against the encoder -/

theorem decodeTag_tag (i : Instr) : decodeTag i.tag.toNat (i.address?.getD 0#15) = some i := by
  cases i <;> rfl

theorem tag_toNat_of_decodeTag {tag : Nat} {y : Addr} {i : Instr} (h : decodeTag tag y = some i) :
    i.tag.toNat = tag := by
  have htag : tag < 28 := by
    by_contra hge
    simp [decodeTag_of_le (Nat.le_of_not_lt hge) y] at h
  interval_cases tag <;> cases h <;> rfl

@[simp] theorem tagField_encode (i : Instr) : tagField (encode i) = i.tag :=
  tagField_append _ _

theorem decode_encode (i : Instr) : decode (encode i) = .ok i := by
  rw [encode, decode_append, decodeTag_tag]

theorem tagField_lt_of_decode {w : Command} {i : Instr} (h : decode w = .ok i) : (tagField w).toNat < 28 := by
  by_contra hge
  cases h.symm.trans (decode_of_tag_le (Nat.le_of_not_lt hge))

theorem tag_of_decode {w : Command} {i : Instr} (h : decode w = .ok i) : i.tag = tagField w := by
  rw [← append_fields w, decode_append] at h
  split at h
  next hsome =>
    cases h
    exact BitVec.eq_of_toNat_eq (tag_toNat_of_decodeTag hsome)
  next => cases h

/-- The decoded instruction carries the address field of its word exactly when its format has an address
(30_encoding R94, R95). -/
theorem address?_of_decode {w : Command} {i : Instr} (h : decode w = .ok i) :
    i.address? = if i.format = .M then some (addrField w) else none := by
  obtain ⟨j, hj, haddr⟩ := decode_of_tag_lt (tagField_lt_of_decode h)
  cases h.symm.trans hj
  exact haddr

/-! ### The rows of the opcode map -/

/-- The one mask of the opcode map keeps the tag (30_encoding R96). -/
theorem and_mask_of_mem {r : OpcodeRow} (hr : r ∈ opcodeTable) (w : Command) :
    w &&& r.mask = tagField w ++ 0#15 := by
  have hmask : ∀ r ∈ opcodeTable, r.mask = 0xF8000#20 := by decide
  rw [hmask r hr, ← tag_of_masked (tagField w) (addrField w), append_fields]

theorem tagField_pattern_lt : ∀ r ∈ opcodeTable, (tagField r.pattern).toNat < 28 := by decide

theorem tagField_eq_of_selects {r : OpcodeRow} (hr : r ∈ opcodeTable) {w : Command} (h : w &&& r.mask = r.pattern) :
    tagField w = tagField r.pattern := by
  rw [← h, and_mask_of_mem hr, tagField_append]

theorem encode_selects_own_row (i : Instr) : Laws.TableRow.Statement i := by
  cases i with
  | cla y => exact Laws.TableRow.cla y
  | cls y => exact Laws.TableRow.cls y
  | ldq y => exact Laws.TableRow.ldq y
  | sto y => exact Laws.TableRow.sto y
  | stq y => exact Laws.TableRow.stq y
  | slq y => exact Laws.TableRow.slq y
  | stp y => exact Laws.TableRow.stp y
  | std y => exact Laws.TableRow.std y
  | sta y => exact Laws.TableRow.sta y
  | clm => exact Laws.TableRow.clm
  | chs => exact Laws.TableRow.chs
  | ssp => exact Laws.TableRow.ssp
  | ssm => exact Laws.TableRow.ssm
  | cal y => exact Laws.TableRow.cal y
  | acl y => exact Laws.TableRow.acl y
  | add y => exact Laws.TableRow.add y
  | adm y => exact Laws.TableRow.adm y
  | sub y => exact Laws.TableRow.sub y
  | sbm y => exact Laws.TableRow.sbm y
  | rnd => exact Laws.TableRow.rnd
  | mpy y => exact Laws.TableRow.mpy y
  | mpr y => exact Laws.TableRow.mpr y
  | dvh y => exact Laws.TableRow.dvh y
  | dvp y => exact Laws.TableRow.dvp y
  | clearCore => exact Laws.TableRow.clearCore
  | clearArith => exact Laws.TableRow.clearArith
  | clearProg => exact Laws.TableRow.clearProg
  | clearAll => exact Laws.TableRow.clearAll

/-- A word that decodes selects the rows that the encoding of its instruction selects, since both have one tag; that
is the instruction's own row alone. -/
theorem rows_of_decode {w : Command} {i : Instr} (h : decode w = .ok i) :
    ∃ r, opcodeTable.filter (fun r => w &&& r.mask == r.pattern) = [r] ∧
      i.mnemonic = r.mnemonic ∧ i.format = r.format := by
  have hsame : opcodeTable.filter (fun r => w &&& r.mask == r.pattern) =
      opcodeTable.filter (fun r => encode i &&& r.mask == r.pattern) :=
    List.filter_congr fun r hr => by
      rw [and_mask_of_mem hr, and_mask_of_mem hr, tagField_encode, tag_of_decode h]
  obtain ⟨r, hrows, hr⟩ := List.map_eq_singleton_iff.1 (encode_selects_own_row i)
  obtain ⟨hmnemonic, hformat⟩ := Prod.mk.inj hr
  exact ⟨r, hsame.trans hrows, hmnemonic.symm, hformat.symm⟩

/-! ### The obligations -/

/-- Settles O1: the word `{tag, y}` of a command holds the tag that selects it and the operand it carries. -/
theorem decodeUndoesEncode : Obligations.DecodeUndoesEncode :=
  decode_encode

/-- Settles O2: from tag 28 on no pattern of the map has the word's tag; below, the rows selected are those of the
decoded instruction. -/
theorem everyWordSelectsOneRowOrIsRefused : Obligations.EveryWordSelectsOneRowOrIsRefused := by
  intro w
  refine ⟨fun hge => ⟨fun r hr hselects => ?_, decode_of_tag_le hge⟩, fun hlt => ?_⟩
  · have hpattern := tagField_pattern_lt r hr
    rw [← tagField_eq_of_selects hr hselects] at hpattern
    exact Nat.not_lt_of_le hge hpattern
  · obtain ⟨i, hdecode, haddr⟩ := decode_of_tag_lt hlt
    obtain ⟨r, hrows, hmnemonic, hformat⟩ := rows_of_decode hdecode
    have hselected : ∀ r', (r' ∈ opcodeTable ∧ w &&& r'.mask = r'.pattern) ↔ r' = r := fun r' => by
      rw [← List.mem_singleton (a := r'), ← hrows, List.mem_filter, beq_iff_eq]
    obtain ⟨hmem, hselects⟩ := (hselected r).2 rfl
    rw [hformat] at haddr
    exact ⟨r, hmem, hselects, fun r' hr' h => (hselected r').1 ⟨hr', h⟩, i, hdecode, hmnemonic, hformat,
      fun hM => haddr.trans (if_pos hM), fun hM => haddr.trans (if_neg hM)⟩

/-- Settles O3: the encoder writes the tag of the word back, and behind it the operand or, where there is none,
zeros. -/
theorem encodeUndoesDecode : Obligations.EncodeUndoesDecode := by
  intro w i h
  have hencode : encode i = tagField w ++ i.address?.getD 0#15 := by rw [encode, tag_of_decode h]
  have haddr := address?_of_decode h
  constructor
  · intro hM
    rw [hencode, haddr, if_pos hM]
    exact append_fields w
  · intro hM
    rw [hencode, haddr, if_neg hM]
    rfl

/-- Settles O4: each word read as its two fields, `{tag, y}`. -/
theorem specWordsDecode : Obligations.SpecWordsDecode :=
  ⟨decode_append 15 1, decode_append 20 10, decode_append 6 20, decode_append 9 0x123, decode_append 24 0x7FFF,
    decode_append 28 0, decode_append 31 0x7FFF⟩

end Sys2Proof

namespace Sys2Proof.Machine

/-- Settles O11: the step runs the word, and a word that decodes runs as its instruction. -/
theorem stepRunsDecodedCommand : Obligations.StepRunsDecodedCommand := by
  intro s w rest i hin hdecode
  rw [step_of_command hin, runCommand_of_ok hdecode]
  rfl

end Sys2Proof.Machine
end

section
/-!
The bit-field utilities bit by bit (40_bitfield_and_codec R120 to R123), and the codec as integer arithmetic around
`2^s`, the value of the sign bit (R126 to R130).
-/

namespace Sys2Proof.Machine

/-! ### The bit-field utilities -/

theorem getbit_eq {n : Nat} (w : BitVec n) (p : Fin n) : getbit w p = w.getLsbD p := rfl

theorem setbit_getLsbD {n : Nat} (w : BitVec n) (p : Fin n) (k : Nat) :
    (setbit w p).getLsbD k = if k = p then true else w.getLsbD k := by
  rw [setbit, BitVec.getLsbD_or, BitVec.getLsbD_twoPow]
  by_cases h : k = p
  · simp [h]
  · simp [h, Ne.symm h]

theorem clearbit_getLsbD {n : Nat} (w : BitVec n) (p : Fin n) (k : Nat) :
    (clearbit w p).getLsbD k = if k = p then false else w.getLsbD k := by
  rw [clearbit, BitVec.getLsbD_and, BitVec.getLsbD_not, BitVec.getLsbD_twoPow]
  by_cases h : k = p
  · simp [h]
  · simpa [h, Ne.symm h] using BitVec.lt_of_getLsbD

theorem togglebit_getLsbD {n : Nat} (w : BitVec n) (p : Fin n) (k : Nat) :
    (togglebit w p).getLsbD k = if k = p then !(w.getLsbD k) else w.getLsbD k := by
  rw [togglebit, BitVec.getLsbD_xor, BitVec.getLsbD_twoPow]
  by_cases h : k = p
  · simp [h]
  · simp [h, Ne.symm h]

/-! ### The sign bit, the topmost one -/

theorem signBit_toNat (s : Nat) : (BitVec.twoPow (s + 1) s).toNat = 2 ^ s :=
  BitVec.toNat_twoPow_of_lt (Nat.lt_succ_self s)

theorem getbit_last {s : Nat} (w : BitVec (s + 1)) : getbit w (Fin.last s) = decide (2 ^ s ≤ w.toNat) :=
  w.msb_eq_getLsbD_last.symm.trans w.msb_eq_decide

theorem clearbit_last_toNat {s : Nat} (w : BitVec (s + 1)) : (clearbit w (Fin.last s)).toNat = w.toNat % 2 ^ s := by
  apply Nat.eq_of_testBit_eq
  intro k
  rw [BitVec.testBit_toNat, clearbit_getLsbD, Nat.testBit_mod_two_pow, BitVec.testBit_toNat, Fin.val_last]
  rcases lt_trichotomy k s with h | h | h
  · simp [h, h.ne]
  · simp [h]
  · simp [h.ne', Nat.not_lt_of_lt h, BitVec.getLsbD_of_ge w k h]

theorem setbit_last_toNat {s : Nat} {w : BitVec (s + 1)} (h : w.toNat < 2 ^ s) :
    (setbit w (Fin.last s)).toNat = 2 ^ s + w.toNat := by
  have hadd : 2 ^ s + w.toNat = 2 ^ s ||| w.toNat := by simpa using Nat.two_pow_add_eq_or_of_lt h 1
  rw [setbit, BitVec.toNat_or, Fin.val_last, signBit_toNat, Nat.or_comm, hadd]

/-! ### The codec -/

/-- Below `2^s` a word stands for itself, and from `2^s` on for the negative of what exceeds it (R126). -/
theorem toSigned_eq {s : Nat} (w : BitVec (s + 1)) :
    toSigned w = if 2 ^ s ≤ w.toNat then ((2 ^ s : Nat) : Int) - w.toNat else w.toNat := by
  have hw : w.toNat < 2 ^ s * 2 := w.isLt
  rw [toSigned, getbit_last, clearbit_last_toNat]
  by_cases h : 2 ^ s ≤ w.toNat
  · have hmod : w.toNat % 2 ^ s = w.toNat - 2 ^ s := by
      rw [Nat.mod_eq_sub_mod h, Nat.mod_eq_of_lt (by omega)]
    simp only [h, hmod, decide_true, if_true]
    omega
  · simp [h, Nat.mod_eq_of_lt (Nat.lt_of_not_le h)]

theorem natAbs_toSigned_lt {s : Nat} (w : BitVec (s + 1)) : (toSigned w).natAbs < 2 ^ s := by
  have hw : w.toNat < 2 ^ s * 2 := w.isLt
  rw [toSigned_eq]
  split <;> omega

theorem toSigned_negativeZero (s : Nat) : toSigned (BitVec.twoPow (s + 1) s) = 0 := by
  rw [toSigned_eq, signBit_toNat]
  simp

/-- The codec has two words for 0 and one for every other integer, so without negative zero it has one for each. -/
theorem eq_of_toSigned_eq {s : Nat} {a b : BitVec (s + 1)} (ha : a ≠ BitVec.twoPow (s + 1) s)
    (hb : b ≠ BitVec.twoPow (s + 1) s) (h : toSigned a = toSigned b) : a = b := by
  rw [BitVec.toNat_ne, signBit_toNat] at ha hb
  apply BitVec.eq_of_toNat_eq
  rw [toSigned_eq, toSigned_eq] at h
  split at h <;> split at h <;> omega

theorem toWord_of_le {s : Nat} {v : Int} (h : 2 ^ s ≤ v.natAbs) : toWord s v = none :=
  if_neg (Nat.not_lt_of_le h)

theorem toWord_zero (s : Nat) : toWord s 0 = some 0#(s + 1) := by
  simp [toWord]

/-- Within the contract `toWord` answers the magnitude, and `2^s` more for a negative integer (R127). -/
theorem toWord_of_lt {s : Nat} {v : Int} (h : v.natAbs < 2 ^ s) :
    ∃ w, toWord s v = some w ∧ w.toNat = if v < 0 then 2 ^ s + v.natAbs else v.natAbs := by
  have hm : (BitVec.ofNat (s + 1) v.natAbs).toNat = v.natAbs := by
    rw [BitVec.toNat_ofNat, Nat.mod_eq_of_lt (by omega)]
  refine ⟨_, if_pos h, ?_⟩
  split
  · rw [setbit_last_toNat (by omega), hm]
  · exact hm

theorem toWord_exact {s : Nat} {v : Int} (h : v.natAbs < 2 ^ s) :
    ∃ w, toWord s v = some w ∧ toSigned w = v ∧ w ≠ BitVec.twoPow (s + 1) s := by
  obtain ⟨w, hw, hnat⟩ := toWord_of_lt h
  refine ⟨w, hw, ?_, ?_⟩
  · rw [toSigned_eq, hnat]
    split <;> split <;> omega
  · rw [BitVec.toNat_ne, signBit_toNat, hnat]
    split <;> omega

theorem toWord_toSigned {s : Nat} {w : BitVec (s + 1)} (h : w ≠ BitVec.twoPow (s + 1) s) :
    toWord s (toSigned w) = some w := by
  obtain ⟨w', hw', hsigned, hne⟩ := toWord_exact (natAbs_toSigned_lt w)
  rw [hw', eq_of_toSigned_eq hne h hsigned]

/-! ### The obligations -/

/-- Settles O6: within the contract `toWord` answers a word of the integer it is given, and off negative zero that
integer has one word. -/
theorem codecRoundTrip : Obligations.CodecRoundTrip := by
  intro s
  refine ⟨fun w => toWord_toSigned, ?_, fun v hv => ?_⟩
  · rw [toSigned_negativeZero, toWord_zero]
  · obtain ⟨w, hw, hsigned, -⟩ := toWord_exact (Nat.lt_of_le_pred (Nat.two_pow_pos s) hv)
    exact ⟨w, hw, hsigned⟩

/-- Settles O7: the sum is a `toWord` of an integer, within its contract or outside it. -/
theorem codecAddIsExactOrRefused : Obligations.CodecAddIsExactOrRefused :=
  fun _ _ _ => ⟨toWord_exact, toWord_of_le⟩

/-- Settles O5: each utility is one bitwise operation with `2^p`, whose one set bit is bit `p`. -/
theorem bitUtilitiesTouchOneBit : Obligations.BitUtilitiesTouchOneBit :=
  fun _ w p => ⟨getbit_eq w p, fun k _ => setbit_getLsbD w p k, fun k _ => clearbit_getLsbD w p k,
    fun k _ => togglebit_getLsbD w p k⟩

end Sys2Proof.Machine
end

section
/-!
Loads and stores (41_load_store R140 to R149). A format M command is settled by three facts: its tag selects it, its
answer is one next state behind the address check, and that state has the effect. The words that the stores form are
read bit by bit, once each.
-/

namespace Sys2Proof.Machine

/-! ### A command of format M, and what the updates leave unchanged -/

theorem completesWithAddress {tag : Tag} {ins : Addr → Instr} {effect : Addr → State → State → Prop}
    {next : Addr → State → State} (htag : ∀ y, decodeTag tag.toNat y = some (ins y))
    (hexec : ∀ y s, exec (ins y) s = withValidAddress (.command (ins y)) y s (.next (next y s)))
    (heffect : ∀ y s, effect y s (next y s)) : CompletesWithAddress tag ins effect := by
  intro y s
  refine ⟨by rw [decode_append, htag], fun hlt => ⟨next y s, ?_, heffect y s⟩, fun hle => ?_⟩
  · rw [hexec, withValidAddress_of_lt hlt]
  · rw [hexec, withValidAddress_of_le hle]

theorem State.frame_setAc (s : State) (v : AcWord) : Frame [.ac] [] noWord s (s.setAc v) :=
  s.frame_writeRegister .ac v

theorem State.frame_setMq (s : State) (v : Word36) : Frame [.mq] [] noWord s (s.setMq v) :=
  s.frame_writeRegister .mq v

theorem State.frame_writeWord (s : State) (y : Addr) (v : Word36) :
    Frame [] [] (wordAt y) s (s.writeWord y.toNat v) where
  registers r _ := by cases r <;> rfl
  flagBank _ _ := rfl
  memory _ ha := s.readWord_writeWord_other v ha
  coreSize := rfl
  verbose := rfl
  inputs := rfl

/-- A command that answers one checked write at its own address, of a word whose bits are known. -/
theorem completesWithAddress_store {tag : Tag} {ins : Addr → Instr} {word : Addr → State → Word36}
    {bits : Addr → State → Nat → Bool} (htag : ∀ y, decodeTag tag.toNat y = some (ins y))
    (hexec : ∀ y s, exec (ins y) s =
      withValidAddress (.command (ins y)) y s (.next (s.writeWord y.toNat (word y s))))
    (hbits : ∀ y s k, k < 36 → (word y s).getLsbD k = bits y s k) :
    CompletesWithAddress tag ins fun y s t =>
      (∀ k < 36, (t.readWord y.toNat).getLsbD k = bits y s k) ∧ Frame [] [] (wordAt y) s t :=
  completesWithAddress htag hexec fun y s =>
    ⟨fun k hk => by rw [State.readWord_writeWord_same, hbits y s k hk], s.frame_writeWord y _⟩

/-! ### The values loaded and the words stored, bit by bit -/

theorem wordMag_getLsbD (w : Word36) (k : Nat) : (wordMag w).getLsbD k = (decide (k < 35) && w.getLsbD k) := by
  simp [wordMag, BitVec.extractLsb]

theorem acMag_getLsbD (a : AcWord) (k : Nat) : (acMag a).getLsbD k = (decide (k < 35) && a.getLsbD k) := by
  simp [acMag, BitVec.extractLsb]

/-- The accumulator that CLA and CLS load, `{sign, 0, 0, w.M}` (R141, R142). -/
theorem packAc_wordMag_getLsbD (sign : Bool) (w : Word36) (k : Nat) :
    (packAc sign false false (wordMag w)).getLsbD k =
      if k = 37 then sign else if k < 35 then w.getLsbD k else false := by
  rw [packAc_getLsbD, wordMag_getLsbD]
  by_cases hk : k < 35
  · simp [hk, show k ≠ 37 by omega]
  · by_cases hsign : k = 37 <;> simp [hk, hsign]

/-- The accumulator with P and Q cleared: what a load of its own sign and magnitude leaves (R141, R144). -/
theorem packAc_acSign_acMag_getLsbD (a : AcWord) {k : Nat} (hk : k < 38) :
    (packAc (acSign a) false false (acMag a)).getLsbD k = if k = 35 ∨ k = 36 then false else a.getLsbD k := by
  rw [packAc_getLsbD, acMag_getLsbD, acSign_eq]
  by_cases hmag : k < 35
  · simp [hmag, show ¬(k = 35 ∨ k = 36) by omega]
  · obtain rfl | rfl | rfl : k = 35 ∨ k = 36 ∨ k = 37 := by omega
    all_goals rfl

/-- The word that STO stores, `{AC.S, AC.M}` (R144). -/
theorem packWord_acSign_acMag_getLsbD (a : AcWord) {k : Nat} (hk : k < 36) :
    (packWord (acSign a) (acMag a)).getLsbD k = if k = 35 then a.getLsbD 37 else a.getLsbD k := by
  rw [packWord_getLsbD, acMag_getLsbD, acSign_eq]
  by_cases hmag : k < 35
  · simp [hmag, show k ≠ 35 by omega]
  · simp [show k = 35 by omega]

theorem slqWord_getLsbD (mq w : Word36) {k : Nat} (hk : k < 36) :
    (slqWord mq w).getLsbD k = if 18 ≤ k then mq.getLsbD k else w.getLsbD k := by
  rw [slqWord, BitVec.getLsbD_append, BitVec.getLsbD_extractLsb, BitVec.getLsbD_extractLsb]
  by_cases hlow : k < 18
  · simp [hlow, show ¬18 ≤ k by omega]
  · simp [hlow, show 18 ≤ k by omega, show k - 18 < 18 by omega]

theorem stpWord_getLsbD (a : AcWord) (w : Word36) {k : Nat} (hk : k < 36) :
    (stpWord a w).getLsbD k =
      if k = 35 then a.getLsbD 37 else if 33 ≤ k then a.getLsbD k else w.getLsbD k := by
  rw [stpWord, BitVec.getLsbD_append, BitVec.getLsbD_append, BitVec.getLsbD_extractLsb, BitVec.getLsbD_extractLsb,
    acSign_eq]
  by_cases hkept : k < 33
  · simp [hkept, show k < 35 by omega, show k ≠ 35 by omega, show ¬33 ≤ k by omega]
  · obtain rfl | rfl | rfl : k = 33 ∨ k = 34 ∨ k = 35 := by omega
    all_goals simp

theorem stdWord_getLsbD (a : AcWord) (w : Word36) {k : Nat} (hk : k < 36) :
    (stdWord a w).getLsbD k = if 18 ≤ k ∧ k ≤ 32 then a.getLsbD k else w.getLsbD k := by
  rw [stdWord, BitVec.getLsbD_append, BitVec.getLsbD_append, BitVec.getLsbD_extractLsb, BitVec.getLsbD_extractLsb,
    BitVec.getLsbD_extractLsb]
  by_cases hlow : k < 18
  · simp [hlow, show k < 33 by omega, show ¬18 ≤ k by omega]
  by_cases hfield : k < 33
  · simp [hlow, hfield, show 18 ≤ k by omega, show k ≤ 32 by omega, show k - 18 < 15 by omega]
  · simp [hfield, show ¬k ≤ 32 by omega, show k - 33 < 3 by omega, show 33 + (k - 33) = k by omega]

theorem staWord_getLsbD (a : AcWord) (w : Word36) {k : Nat} (hk : k < 36) :
    (staWord a w).getLsbD k = if k < 15 then a.getLsbD k else w.getLsbD k := by
  rw [staWord, BitVec.getLsbD_append, BitVec.getLsbD_extractLsb, BitVec.getLsbD_extractLsb]
  by_cases hfield : k < 15
  · simp [hfield]
  · simp [hfield, show k - 15 < 21 by omega, show 15 + (k - 15) = k by omega]

/-! ### The obligations -/

/-- Settles O30: the word read back is the word stored, so AC gets back its own sign and magnitude, and MQ itself. -/
theorem loadAfterStoreReloads : Obligations.LoadAfterStoreReloads := by
  intro y s t u
  constructor
  · intro hsto hcla
    obtain ⟨-, rfl⟩ := withValidAddress_next ((exec_sto y s).symm.trans hsto)
    obtain ⟨-, rfl⟩ := withValidAddress_next ((exec_cla y _).symm.trans hcla)
    intro k hk
    rw [State.setAc_ac, State.readWord_writeWord_same, wordSign_packWord, wordMag_packWord,
      packAc_acSign_acMag_getLsbD s.ac hk]
  · intro hstq hldq
    obtain ⟨-, rfl⟩ := withValidAddress_next ((exec_stq y s).symm.trans hstq)
    obtain ⟨-, rfl⟩ := withValidAddress_next ((exec_ldq y _).symm.trans hldq)
    rw [State.setMq_mq, State.readWord_writeWord_same]

/-- Settles O21: `{w.S, 0, 0, w.M}` to AC. -/
theorem claLoadsSignAndMagnitude : Obligations.ClaLoadsSignAndMagnitude :=
  completesWithAddress (fun _ => rfl) exec_cla fun _ s =>
    ⟨fun k _ => packAc_wordMag_getLsbD _ _ k, s.frame_setAc _⟩

/-- Settles O22: `{not w.S, 0, 0, w.M}` to AC. -/
theorem clsLoadsInvertedSign : Obligations.ClsLoadsInvertedSign :=
  completesWithAddress (fun _ => rfl) exec_cls fun _ s =>
    ⟨fun k _ => packAc_wordMag_getLsbD _ _ k, s.frame_setAc _⟩

/-- Settles O23: the word itself to MQ. -/
theorem ldqLoadsWordVerbatim : Obligations.LdqLoadsWordVerbatim :=
  completesWithAddress (fun _ => rfl) exec_ldq fun _ s => ⟨s.setMq_mq _, s.frame_setMq _⟩

/-- Settles O24: the word read back is `{AC.S, AC.M}`. -/
theorem stoStoresSignAndMagnitude : Obligations.StoStoresSignAndMagnitude :=
  completesWithAddress_store (fun _ => rfl) exec_sto fun _ s _ => packWord_acSign_acMag_getLsbD s.ac

/-- Settles O25: the word read back is MQ. -/
theorem stqStoresMqVerbatim : Obligations.StqStoresMqVerbatim :=
  completesWithAddress (fun _ => rfl) exec_stq fun y s => ⟨s.readWord_writeWord_same _ _, s.frame_writeWord y _⟩

/-- Settles O26: the word read back is `slqWord` of MQ and the old word. -/
theorem slqStoresHighHalfOfMq : Obligations.SlqStoresHighHalfOfMq :=
  completesWithAddress_store (fun _ => rfl) exec_slq fun _ s _ => slqWord_getLsbD s.mq _

/-- Settles O27: the word read back is `stpWord` of AC and the old word. -/
theorem stpStoresPrefix : Obligations.StpStoresPrefix :=
  completesWithAddress_store (fun _ => rfl) exec_stp fun _ s _ => stpWord_getLsbD s.ac _

/-- Settles O28: the word read back is `stdWord` of AC and the old word. -/
theorem stdStoresDecrementField : Obligations.StdStoresDecrementField :=
  completesWithAddress_store (fun _ => rfl) exec_std fun _ s _ => stdWord_getLsbD s.ac _

/-- Settles O29: the word read back is `staWord` of AC and the old word. -/
theorem staStoresAddressField : Obligations.StaStoresAddressField :=
  completesWithAddress_store (fun _ => rfl) exec_sta fun _ s _ => staWord_getLsbD s.ac _

end Sys2Proof.Machine
end

section
/-!
Sign and clear (42_sign_and_clear R160 to R164). Each of the four commands writes one value to AC and nothing else, so a
command is settled by its tag, that value, and the value's bits.
-/

namespace Sys2Proof.Machine

/-! ### A command of format N or B, and one that writes AC alone -/

theorem completesWithoutAddress {tag : Tag} {ins : Instr} {effect : State → State → Prop} {next : State → State}
    (htag : ∀ x, decodeTag tag.toNat x = some ins) (hexec : ∀ s, exec ins s = .next (next s))
    (heffect : ∀ s, effect s (next s)) : CompletesWithoutAddress tag ins effect :=
  fun x s => ⟨by rw [decode_append, htag], next s, hexec s, heffect s⟩

/-- A command without an address that answers one write to AC, of a value whose bits are known from the old AC. -/
theorem completesWithoutAddress_setAc {tag : Tag} {ins : Instr} {value : AcWord → AcWord}
    {bits : AcWord → Nat → Bool} (htag : ∀ x, decodeTag tag.toNat x = some ins)
    (hexec : ∀ s, exec ins s = .next (s.setAc (value s.ac)))
    (hbits : ∀ a k, (value a).getLsbD k = bits a k) :
    CompletesWithoutAddress tag ins fun s t =>
      (∀ k < 38, t.ac.getLsbD k = bits s.ac k) ∧ Frame [.ac] [] noWord s t :=
  completesWithoutAddress htag hexec fun s =>
    ⟨fun k _ => by rw [State.setAc_ac, hbits], s.frame_setAc _⟩

/-! ### The values written, bit by bit -/

/-- The accumulator that CLM leaves, `{AC.S, 0, 0, 0}` (R161). -/
theorem packAc_acSign_zero_getLsbD (a : AcWord) (k : Nat) :
    (packAc (acSign a) false false 0#35).getLsbD k = if k = 37 then a.getLsbD 37 else false := by
  rw [packAc_getLsbD, acSign_eq, BitVec.getLsbD_zero]
  by_cases hsign : k = 37
  · simp [hsign]
  · simp [hsign]

/-- The accumulator with its sign inverted (R162). -/
theorem togglebit_sign_getLsbD (a : AcWord) (k : Nat) :
    (togglebit a 37).getLsbD k = if k = 37 then !(a.getLsbD 37) else a.getLsbD k := by
  rw [togglebit_getLsbD]
  by_cases hsign : k = 37
  · subst hsign; rfl
  · exact (if_neg hsign).trans (if_neg hsign).symm

/-- The accumulator with its sign replaced (R163, R164). -/
theorem acWithSign_getLsbD (a : AcWord) (b : Bool) (k : Nat) :
    (acWithSign a b).getLsbD k = if k = 37 then b else a.getLsbD k := by
  cases b with
  | false => exact clearbit_getLsbD a 37 k
  | true => exact setbit_getLsbD a 37 k

/-! ### The obligations -/

/-- Settles O31: `{AC.S, 0, 0, 0}` to AC. -/
theorem clmClearsAllButSign : Obligations.ClmClearsAllButSign :=
  completesWithoutAddress_setAc (fun _ => rfl) exec_clm packAc_acSign_zero_getLsbD

/-- Settles O32: AC with bit 37 toggled. -/
theorem chsInvertsSign : Obligations.ChsInvertsSign :=
  completesWithoutAddress_setAc (fun _ => rfl) exec_chs togglebit_sign_getLsbD

/-- Settles O33: AC with the sign 0. -/
theorem sspForcesSignPositive : Obligations.SspForcesSignPositive :=
  completesWithoutAddress_setAc (fun _ => rfl) exec_ssp (acWithSign_getLsbD · false)

/-- Settles O34: AC with the sign 1. -/
theorem ssmForcesSignNegative : Obligations.SsmForcesSignNegative :=
  completesWithoutAddress_setAc (fun _ => rfl) exec_ssm (acWithSign_getLsbD · true)

end Sys2Proof.Machine
end

section
/-!
Logical load and logical add (43_logical R170 to R172). Both commands write to AC a word `{S, P, L}` whose low 36 bits
`L` are one field, Q and M together, so the bits and the low field of such a word are read once for both.
-/

namespace Sys2Proof.Machine

/-! ### The accumulator `{s, p, low}` -/

/-- The accumulator with sign `s`, P bit `p` and low 36 bits `low` (`AC.L`, 00_scope R10). -/
def packLow (s p : Bool) (low : Word36) : AcWord := BitVec.ofBool s ++ (BitVec.ofBool p ++ low)

theorem packLow_getLsbD (s p : Bool) (low : Word36) {k : Nat} (hk : k < 38) :
    (packLow s p low).getLsbD k = if k < 36 then low.getLsbD k else if k = 36 then p else s := by
  rw [packLow, BitVec.getLsbD_append, BitVec.getLsbD_append]
  by_cases hlow : k < 36
  · simp [hlow, show k < 37 by omega]
  · obtain rfl | rfl : k = 36 ∨ k = 37 := by omega
    all_goals simp

theorem acLow_getLsbD (a : AcWord) (k : Nat) : (acLow a).getLsbD k = (decide (k < 36) && a.getLsbD k) := by
  simp [acLow, BitVec.extractLsb]

@[simp] theorem acLow_packLow (s p : Bool) (low : Word36) : acLow (packLow s p low) = low := by
  apply BitVec.eq_of_getLsbD_eq
  intro k hk
  rw [acLow_getLsbD, packLow_getLsbD s p low (by omega)]
  simp [hk]

theorem packLow_toNat_mod (s p : Bool) (low : Word36) : (packLow s p low).toNat % 2 ^ 36 = low.toNat := by
  rw [← acLow_toNat, acLow_packLow]

/-! ### The values that CAL and ACL write -/

/-- CAL keeps S and P (R171, decision D3). -/
theorem calAc_eq_packLow (a : AcWord) (w : Word36) : calAc a w = packLow (a.getLsbD 37) (a.getLsbD 36) w := rfl

/-- ACL keeps S, and P where the sum of the low fields carries out of bit 35 (R172, decision D4). -/
theorem aclAc_eq_packLow (a : AcWord) (w : Word36) :
    aclAc a w = packLow (a.getLsbD 37) (a.getLsbD 36 && decide (2 ^ 36 ≤ a.toNat % 2 ^ 36 + w.toNat))
      (BitVec.ofNat 36 (a.toNat % 2 ^ 36 + w.toNat)) := by
  rw [← acLow_toNat]
  rfl

theorem calAc_getLsbD (a : AcWord) (w : Word36) {k : Nat} (hk : k < 38) :
    (calAc a w).getLsbD k = if k < 36 then w.getLsbD k else a.getLsbD k := by
  rw [calAc_eq_packLow, packLow_getLsbD _ _ w hk]
  by_cases hlow : k < 36
  · simp [hlow]
  · obtain rfl | rfl : k = 36 ∨ k = 37 := by omega
    all_goals rfl

theorem aclAc_toNat_mod (a : AcWord) (w : Word36) :
    (aclAc a w).toNat % 2 ^ 36 = (a.toNat % 2 ^ 36 + w.toNat) % 2 ^ 36 := by
  rw [aclAc_eq_packLow, packLow_toNat_mod, BitVec.toNat_ofNat]

theorem aclAc_getLsbD_p (a : AcWord) (w : Word36) :
    (aclAc a w).getLsbD 36 = (a.getLsbD 36 && decide (2 ^ 36 ≤ a.toNat % 2 ^ 36 + w.toNat)) := by
  rw [aclAc_eq_packLow, packLow_getLsbD _ _ _ (by decide)]
  rfl

theorem aclAc_getLsbD_sign (a : AcWord) (w : Word36) : (aclAc a w).getLsbD 37 = a.getLsbD 37 := by
  rw [aclAc_eq_packLow, packLow_getLsbD _ _ _ (by decide)]
  rfl

/-! ### The obligations -/

/-- Settles O36: `{AC.S, AC.P and carry, AC.L + w}` to AC. -/
theorem aclAddsLow36Bits : Obligations.AclAddsLow36Bits :=
  completesWithAddress (fun _ => rfl) exec_acl fun _ s =>
    ⟨aclAc_toNat_mod s.ac _, aclAc_getLsbD_p s.ac _, aclAc_getLsbD_sign s.ac _, s.frame_setAc _⟩

/-- Settles O35: `{AC.S, AC.P, w}` to AC. -/
theorem calLoadsLow36Bits : Obligations.CalLoadsLow36Bits :=
  completesWithAddress (fun _ => rfl) exec_cal fun _ s => ⟨fun _ => calAc_getLsbD s.ac _, s.frame_setAc _⟩

end Sys2Proof.Machine
end

section
/-!
Raw accumulator arithmetic (44_add_subtract R180 to R187). ADD, ADM, SUB and SBM each write to AC one value computed
from the old AC and the operand word, and nothing else. What these values are as integers, that two of them are inverse
to two others, and how they stand to signed arithmetic are facts about the values alone.
-/

namespace Sys2Proof.Machine

/-! ### Commands that write AC from AC and the operand word -/

/-- The accumulator after ADD of the word `w` (R181). -/
def addAc (a : AcWord) (w : Word36) : AcWord := if wordSign w then rawSub a (wordMag w) else rawAdd a w

/-- The accumulator after ADM of the word `w` (R182). -/
def admAc (a : AcWord) (w : Word36) : AcWord := rawAdd a (wordMag w)

/-- The accumulator after SUB of the word `w` (R183). -/
def subAc (a : AcWord) (w : Word36) : AcWord := if wordSign w then rawAdd a (wordMag w) else rawSub a w

/-- The accumulator after SBM of the word `w` (R184). -/
def sbmAc (a : AcWord) (w : Word36) : AcWord := rawSub a (wordMag w)

/-- The command checks its address, then writes `value` of the old AC and the addressed word to AC and does no more. -/
def WritesAc (ins : Addr → Instr) (value : AcWord → Word36 → AcWord) : Prop :=
  ∀ y s, exec (ins y) s =
    withValidAddress (.command (ins y)) y s (.next (s.setAc (value s.ac (s.readWord y.toNat))))

theorem writesAc_add : WritesAc .add addAc := exec_add
theorem writesAc_adm : WritesAc .adm admAc := exec_adm
theorem writesAc_sub : WritesAc .sub subAc := exec_sub
theorem writesAc_sbm : WritesAc .sbm sbmAc := exec_sbm

theorem WritesAc.next {ins : Addr → Instr} {value : AcWord → Word36 → AcWord} (hins : WritesAc ins value)
    {y : Addr} {s t : State} (h : exec (ins y) s = .next t) : t = s.setAc (value s.ac (s.readWord y.toNat)) :=
  (withValidAddress_next ((hins y s).symm.trans h)).2

/-- Neither command stores to core, so the second one reads the word that the first one read. -/
theorem WritesAc.restores {ins undo : Addr → Instr} {value inverse : AcWord → Word36 → AcWord}
    (hins : WritesAc ins value) (hundo : WritesAc undo inverse) (hinverse : ∀ a w, inverse (value a w) w = a)
    {y : Addr} {s t u : State} (ht : exec (ins y) s = .next t) (hu : exec (undo y) t = .next u) : u = s := by
  obtain rfl := hins.next ht
  obtain rfl := hundo.next hu
  rw [State.setAc_ac, State.readWord_setAc, hinverse]
  rfl

/-! ### The values as integers modulo 2^38 (decision D1) -/

theorem addAc_toNat (a : AcWord) (w : Word36) :
    ((addAc a w).toNat : Int) =
      (if w.getLsbD 35 then (a.toNat : Int) - (w.toNat % 2 ^ 35 : Nat) else (a.toNat : Int) + w.toNat) % 2 ^ 38 := by
  rw [addAc, wordSign_eq]
  split
  · rw [rawSub_toNat (by decide), wordMag_toNat]
  · rw [rawAdd_toNat (by decide)]
    norm_cast

theorem admAc_toNat (a : AcWord) (w : Word36) : (admAc a w).toNat = (a.toNat + w.toNat % 2 ^ 35) % 2 ^ 38 := by
  rw [admAc, rawAdd_toNat (by decide), wordMag_toNat]

theorem subAc_toNat (a : AcWord) (w : Word36) :
    ((subAc a w).toNat : Int) =
      (if w.getLsbD 35 then (a.toNat : Int) + (w.toNat % 2 ^ 35 : Nat) else (a.toNat : Int) - w.toNat) % 2 ^ 38 := by
  rw [subAc, wordSign_eq]
  split
  · rw [rawAdd_toNat (by decide), wordMag_toNat]
    norm_cast
  · rw [rawSub_toNat (by decide)]

theorem sbmAc_toNat (a : AcWord) (w : Word36) :
    ((sbmAc a w).toNat : Int) = ((a.toNat : Int) - (w.toNat % 2 ^ 35 : Nat)) % 2 ^ 38 := by
  rw [sbmAc, rawSub_toNat (by decide), wordMag_toNat]

theorem rndAc_toNat (a : AcWord) (mq : Word36) :
    (rndAc a mq).toNat = (a.toNat + if mq.getLsbD 34 then 1 else 0) % 2 ^ 38 := by
  have hbit : getbit mq 34 = mq.getLsbD 34 := rfl
  rw [rndAc, hbit]
  split
  · exact rawAdd_toNat (by decide) a 1#1
  · exact (Nat.mod_eq_of_lt a.isLt).symm

/-! ### The inverses (R187) -/

theorem subAc_addAc (a : AcWord) (w : Word36) : subAc (addAc a w) w = a := by
  rw [subAc, addAc]
  split
  · exact rawAdd_rawSub a _ _ rfl
  · exact rawSub_rawAdd a _ _ rfl

theorem addAc_subAc (a : AcWord) (w : Word36) : addAc (subAc a w) w = a := by
  rw [subAc, addAc]
  split
  · exact rawSub_rawAdd a _ _ rfl
  · exact rawAdd_rawSub a _ _ rfl

theorem sbmAc_admAc (a : AcWord) (w : Word36) : sbmAc (admAc a w) w = a := rawSub_rawAdd a _ _ rfl

theorem admAc_sbmAc (a : AcWord) (w : Word36) : admAc (sbmAc a w) w = a := rawAdd_rawSub a _ _ rfl

/-! ### ADM and SBM from an accumulator with P = Q = 0 (R186) -/

/-- Each bit of the accumulator lies in one of its four fields (10_state R21). -/
theorem packAc_fields (a : AcWord) : packAc (acSign a) (acP a) (acQ a) (acMag a) = a := by
  apply BitVec.eq_of_getLsbD_eq
  intro k hk
  rw [packAc_getLsbD, acMag_getLsbD]
  by_cases hmag : k < 35
  · simp [hmag]
  · obtain rfl | rfl | rfl : k = 35 ∨ k = 36 ∨ k = 37 := by omega
    all_goals rfl

section GuardsClear

variable {a : AcWord} (hp : a.getLsbD 36 = false) (hq : a.getLsbD 35 = false)

include hp hq

theorem ac_toNat_of_guards_clear : a.toNat = (if a.getLsbD 37 then 2 ^ 37 else 0) + a.toNat % 2 ^ 35 := by
  have hfields := packAc_toNat (acSign a) (acP a) (acQ a) (acMag a)
  rw [packAc_fields, acSign_eq, acP_eq, acQ_eq, hp, hq, acMag_toNat] at hfields
  simpa using hfields

/-- The sum of the magnitudes may carry into Q, and no further. -/
theorem admAc_toNat_of_guards_clear (w : Word36) :
    (admAc a w).toNat = (if a.getLsbD 37 then 2 ^ 37 else 0) + (a.toNat % 2 ^ 35 + w.toNat % 2 ^ 35) := by
  have ha := ac_toNat_of_guards_clear hp hq
  rw [admAc_toNat]
  split_ifs at ha ⊢ <;> omega

theorem sbmAc_toNat_of_le (w : Word36) (h : w.toNat % 2 ^ 35 ≤ a.toNat % 2 ^ 35) :
    (sbmAc a w).toNat = (if a.getLsbD 37 then 2 ^ 37 else 0) + (a.toNat % 2 ^ 35 - w.toNat % 2 ^ 35) := by
  have ha := ac_toNat_of_guards_clear hp hq
  have hsub := sbmAc_toNat a w
  split_ifs at ha ⊢ <;> omega

/-- The borrow runs through Q and P, sets both, and inverts the sign. -/
theorem sbmAc_toNat_of_lt (w : Word36) (h : a.toNat % 2 ^ 35 < w.toNat % 2 ^ 35) :
    (sbmAc a w).toNat = (if a.getLsbD 37 then 0 else 2 ^ 37) + 2 ^ 36 + 2 ^ 35 +
      (2 ^ 35 - (w.toNat % 2 ^ 35 - a.toNat % 2 ^ 35)) := by
  have ha := ac_toNat_of_guards_clear hp hq
  have hsub := sbmAc_toNat a w
  split_ifs at ha ⊢ <;> omega

end GuardsClear

/-! ### The obligations -/

/-- Settles O37: `addAc` of AC and the word to AC. -/
theorem addCombinesRawOperand : Obligations.AddCombinesRawOperand :=
  completesWithAddress (fun _ => rfl) writesAc_add fun _ s => ⟨addAc_toNat s.ac _, s.frame_setAc _⟩

/-- Settles O38: `admAc` of AC and the word to AC. -/
theorem admAddsMagnitude : Obligations.AdmAddsMagnitude :=
  completesWithAddress (fun _ => rfl) writesAc_adm fun _ s => ⟨admAc_toNat s.ac _, s.frame_setAc _⟩

/-- Settles O39: `subAc` of AC and the word to AC. -/
theorem subCombinesRawOperand : Obligations.SubCombinesRawOperand :=
  completesWithAddress (fun _ => rfl) writesAc_sub fun _ s => ⟨subAc_toNat s.ac _, s.frame_setAc _⟩

/-- Settles O40: `sbmAc` of AC and the word to AC. -/
theorem sbmSubtractsMagnitude : Obligations.SbmSubtractsMagnitude :=
  completesWithAddress (fun _ => rfl) writesAc_sbm fun _ s => ⟨sbmAc_toNat s.ac _, s.frame_setAc _⟩

/-- Settles O42: the four pairs of values are inverse on all 38 bits. -/
theorem subAfterAddRestores : Obligations.SubAfterAddRestores := fun _ _ _ _ =>
  ⟨writesAc_add.restores writesAc_sub subAc_addAc, writesAc_sub.restores writesAc_add addAc_subAc,
    writesAc_adm.restores writesAc_sbm sbmAc_admAc, writesAc_sbm.restores writesAc_adm admAc_sbmAc⟩

/-- Settles O43: the sum carries into Q at most, and the difference borrows through P and Q exactly when `m > n`. -/
theorem rawArithmeticAgainstSigned : Obligations.RawArithmeticAgainstSigned := by
  intro y s t u hp hq hadm hsbm
  obtain rfl := writesAc_adm.next hadm
  obtain rfl := writesAc_sbm.next hsbm
  have hsum := admAc_toNat_of_guards_clear hp hq (s.readWord y.toNat)
  have hle := sbmAc_toNat_of_le hp hq (s.readWord y.toNat)
  have hlt := sbmAc_toNat_of_lt hp hq (s.readWord y.toNat)
  constructor
  · intro hsign
    simp only [hsign, Bool.false_eq_true, if_false, Nat.zero_add] at hsum hle hlt
    exact ⟨hsum, hle, hlt⟩
  · intro hsign
    simp only [hsign, if_true, Nat.zero_add] at hsum hle hlt
    exact ⟨hsum, hle, hlt⟩

/-- Settles O41: `rndAc` of AC and MQ to AC. -/
theorem rndAddsOneOnMqBit34 : Obligations.RndAddsOneOnMqBit34 :=
  completesWithoutAddress (fun _ => rfl) exec_rnd fun s => ⟨rndAc_toNat s.ac s.mq, s.frame_setAc _⟩

end Sys2Proof.Machine
end

section
/-!
Multiply and divide (45_multiply_divide R200 to R206). The four commands write to MQ and AC two magnitudes under one
sign, `{sg, q}` and `{sg, 0, 0, r}`. What is to show is that each magnitude fits in 35 bits, so that none of it is cut
off; the rest is division with remainder over the naturals, by `2^35` for the product and by the divisor for the
dividend.
-/

namespace Sys2Proof.Machine

/-! ### A magnitude under a sign -/

theorem packWord_toNat_mod (sg : Bool) (m : Magnitude) : (packWord sg m).toNat % 2 ^ 35 = m.toNat := by
  rw [← wordMag_toNat, wordMag_packWord]

theorem packAc_toNat_mod (sg p q : Bool) (m : Magnitude) : (packAc sg p q m).toNat % 2 ^ 35 = m.toNat := by
  rw [← acMag_toNat, acMag_packAc]

theorem magnitude_ofNat_toNat {m : Nat} (hm : m < 2 ^ 35) : (BitVec.ofNat 35 m).toNat = m := by
  rw [BitVec.toNat_ofNat, Nat.mod_eq_of_lt hm]

theorem packWord_ofNat_toNat (sg : Bool) {m : Nat} (hm : m < 2 ^ 35) :
    (packWord sg (BitVec.ofNat 35 m)).toNat = (if sg then 2 ^ 35 else 0) + m := by
  rw [packWord_toNat, magnitude_ofNat_toNat hm]

theorem packAc_ofNat_toNat (sg : Bool) {m : Nat} (hm : m < 2 ^ 35) :
    (packAc sg false false (BitVec.ofNat 35 m)).toNat = (if sg then 2 ^ 37 else 0) + m := by
  rw [packAc_toNat, magnitude_ofNat_toNat hm]
  rfl

/-- RND on an AC whose magnitude is not the largest one stays within the magnitude (R202: no carry into Q). -/
theorem rndAc_packAc_ofNat (sg : Bool) {m : Nat} (hm : m + 1 < 2 ^ 35) (mq : Word36) :
    rndAc (packAc sg false false (BitVec.ofNat 35 m)) mq =
      packAc sg false false (BitVec.ofNat 35 (m + if mq.getLsbD 34 then 1 else 0)) := by
  apply BitVec.eq_of_toNat_eq
  rw [rndAc_toNat, packAc_ofNat_toNat sg (by omega), packAc_ofNat_toNat sg (by split <;> omega),
    Nat.mod_eq_of_lt (by split_ifs <;> omega), Nat.add_assoc]

theorem State.frame_setAc_setMq (s : State) (a : AcWord) (q : Word36) :
    Frame [.ac, .mq] [] noWord s ((s.setAc a).setMq q) where
  registers r hr := by
    obtain ⟨hac, hmq⟩ : r ≠ .ac ∧ r ≠ .mq := by simpa using hr
    exact ((s.setAc a).frame_setMq q |>.registers r (by simpa using hmq)).trans
      (s.frame_setAc a |>.registers r (by simpa using hac))
  flagBank _ _ := rfl
  memory _ _ := rfl
  coreSize := rfl
  verbose := rfl
  inputs := rfl

/-! ### Multiply (R201) -/

/-- The product of the magnitudes of the operand word and of MQ. -/
def product (w mq : Word36) : Nat := (w.toNat % 2 ^ 35) * (mq.toNat % 2 ^ 35)

/-- The high half of a product is at least 2 below `2^35`: the largest product is `(2^35 - 1)^2`. -/
theorem product_div_succ_lt (w mq : Word36) : product w mq / 2 ^ 35 + 1 < 2 ^ 35 := by
  have hw : w.toNat % 2 ^ 35 ≤ 2 ^ 35 - 1 := by omega
  have hmq : mq.toNat % 2 ^ 35 ≤ 2 ^ 35 - 1 := by omega
  have hprod : product w mq ≤ (2 ^ 35 - 1) * (2 ^ 35 - 1) := Nat.mul_le_mul hw hmq
  omega

theorem multiply_ac_eq (w : Word36) (s : State) : (multiply w s).ac =
    packAc (w.getLsbD 35 ^^ s.mq.getLsbD 35) false false (BitVec.ofNat 35 (product w s.mq / 2 ^ 35)) := by
  rw [multiply_ac, wordMag_toNat, wordMag_toNat]
  rfl

theorem multiply_mq_eq (w : Word36) (s : State) : (multiply w s).mq =
    packWord (w.getLsbD 35 ^^ s.mq.getLsbD 35) (BitVec.ofNat 35 (product w s.mq % 2 ^ 35)) := by
  rw [multiply_mq, wordMag_toNat, wordMag_toNat]
  rfl

theorem multiply_ac_toNat (w : Word36) (s : State) : (multiply w s).ac.toNat =
    (if w.getLsbD 35 ^^ s.mq.getLsbD 35 then 2 ^ 37 else 0) + product w s.mq / 2 ^ 35 := by
  rw [multiply_ac_eq, packAc_ofNat_toNat _ (Nat.lt_of_succ_lt (product_div_succ_lt w s.mq))]

theorem multiply_mq_toNat (w : Word36) (s : State) : (multiply w s).mq.toNat =
    (if w.getLsbD 35 ^^ s.mq.getLsbD 35 then 2 ^ 35 else 0) + product w s.mq % 2 ^ 35 := by
  rw [multiply_mq_eq, packWord_ofNat_toNat _ (Nat.mod_lt _ (by decide))]

theorem multiply_ac_mag (w : Word36) (s : State) :
    (multiply w s).ac.toNat % 2 ^ 35 = product w s.mq / 2 ^ 35 := by
  rw [multiply_ac_eq, packAc_toNat_mod,
    magnitude_ofNat_toNat (Nat.lt_of_succ_lt (product_div_succ_lt w s.mq))]

theorem multiply_mq_mag (w : Word36) (s : State) :
    (multiply w s).mq.toNat % 2 ^ 35 = product w s.mq % 2 ^ 35 := by
  rw [multiply_mq_eq, packWord_toNat_mod, magnitude_ofNat_toNat (Nat.mod_lt _ (by decide))]

/-- The bit of MQ on which RND rounds is bit 34 of the product. -/
theorem multiply_mq_getLsbD_34 (w : Word36) (s : State) :
    (multiply w s).mq.getLsbD 34 = (product w s.mq).testBit 34 := by
  rw [multiply_mq_eq, packWord_getLsbD, if_pos (by decide), BitVec.getLsbD_ofNat, Nat.testBit_mod_two_pow]
  simp

theorem multiply_frame (w : Word36) (s : State) : Frame [.ac, .mq] [] noWord s (multiply w s) :=
  s.frame_setAc_setMq _ _

/-- The accumulator that MPR leaves: the high half of the product, rounded (R202). -/
theorem rndAc_multiply (w : Word36) (s : State) : rndAc (multiply w s).ac (multiply w s).mq =
    packAc (w.getLsbD 35 ^^ s.mq.getLsbD 35) false false
      (BitVec.ofNat 35 (product w s.mq / 2 ^ 35 + if (product w s.mq).testBit 34 then 1 else 0)) := by
  rw [multiply_ac_eq, rndAc_packAc_ofNat _ (product_div_succ_lt w s.mq), multiply_mq_getLsbD_34]

/-! ### Divide (R205) -/

/-- The dividend `AC.M * 2^35 + MQ.M` (decision D5). -/
def dividend (s : State) : Nat := (s.ac.toNat % 2 ^ 35) * 2 ^ 35 + s.mq.toNat % 2 ^ 35

/-- AC and MQ hold the two halves of the product, so it is the dividend of a divide that follows. -/
theorem dividend_multiply (w : Word36) (s : State) : dividend (multiply w s) = product w s.mq := by
  rw [dividend, multiply_ac_mag, multiply_mq_mag, Nat.div_add_mod']

/-- A divide on divide overflow sets flags and does no more. -/
theorem divide_frame_of_overflow {w : Word36} {s : State} (h : w.toNat % 2 ^ 35 ≤ s.ac.toNat % 2 ^ 35)
    (halts : Bool) :
    Frame [] (if halts then [.divideCheck, .halt] else [.divideCheck]) noWord s (divide halts w s) := by
  obtain ⟨-, heq⟩ | ⟨hlt, -⟩ := divide_cases halts w s
  · refine ⟨fun r _ => ?_, fun f hf => ?_, fun a _ => ?_, ?_, ?_, ?_⟩
    · rw [heq]; cases r <;> rfl
    · rw [readFlag_divide_of_overflow h]
      cases halts <;> simp_all
    all_goals rw [heq]; rfl
  · exact absurd h (Nat.not_le.2 hlt)

section NoOverflow

variable {w : Word36} {s : State} (h : s.ac.toNat % 2 ^ 35 < w.toNat % 2 ^ 35)

include h

/-- The test for divide overflow is just what makes the quotient fit in 35 bits. -/
theorem dividend_div_lt : dividend s / (w.toNat % 2 ^ 35) < 2 ^ 35 := by
  apply Nat.div_lt_of_lt_mul
  calc dividend s
    _ < (s.ac.toNat % 2 ^ 35 + 1) * 2 ^ 35 := by rw [dividend]; omega
    _ ≤ (w.toNat % 2 ^ 35) * 2 ^ 35 := Nat.mul_le_mul_right _ h

theorem dividend_mod_lt : dividend s % (w.toNat % 2 ^ 35) < w.toNat % 2 ^ 35 :=
  Nat.mod_lt _ (Nat.zero_lt_of_lt h)

theorem divide_of_lt (halts : Bool) : divide halts w s =
    (s.setAc (packAc (s.ac.getLsbD 37 ^^ w.getLsbD 35) false false
      (BitVec.ofNat 35 (dividend s % (w.toNat % 2 ^ 35))))).setMq
      (packWord (s.ac.getLsbD 37 ^^ w.getLsbD 35) (BitVec.ofNat 35 (dividend s / (w.toNat % 2 ^ 35)))) := by
  simp only [divide, wordMag_toNat, acMag_toNat, if_neg (Nat.not_le.2 h)]
  rfl

theorem divide_mq_toNat (halts : Bool) : (divide halts w s).mq.toNat =
    (if s.ac.getLsbD 37 ^^ w.getLsbD 35 then 2 ^ 35 else 0) + dividend s / (w.toNat % 2 ^ 35) := by
  rw [divide_of_lt h, State.setMq_mq, packWord_ofNat_toNat _ (dividend_div_lt h)]

theorem divide_ac_toNat (halts : Bool) : (divide halts w s).ac.toNat =
    (if s.ac.getLsbD 37 ^^ w.getLsbD 35 then 2 ^ 37 else 0) + dividend s % (w.toNat % 2 ^ 35) := by
  have hr := dividend_mod_lt h
  rw [divide_of_lt h, State.setMq_ac, State.setAc_ac, packAc_ofNat_toNat _ (by omega)]

theorem divide_mq_mag (halts : Bool) :
    (divide halts w s).mq.toNat % 2 ^ 35 = dividend s / (w.toNat % 2 ^ 35) := by
  rw [divide_of_lt h, State.setMq_mq, packWord_toNat_mod, magnitude_ofNat_toNat (dividend_div_lt h)]

theorem divide_ac_mag (halts : Bool) :
    (divide halts w s).ac.toNat % 2 ^ 35 = dividend s % (w.toNat % 2 ^ 35) := by
  have hr := dividend_mod_lt h
  rw [divide_of_lt h, State.setMq_ac, State.setAc_ac, packAc_toNat_mod, magnitude_ofNat_toNat (by omega)]

theorem divide_frame_of_lt (halts : Bool) : Frame [.ac, .mq] [] noWord s (divide halts w s) := by
  rw [divide_of_lt h]
  exact s.frame_setAc_setMq _ _

end NoOverflow

/-- DVH and DVP differ in what they do on divide overflow alone. -/
theorem exec_divide_next {y : Addr} {s t : State} (h : exec (.dvh y) s = .next t ∨ exec (.dvp y) s = .next t) :
    ∃ halts, t = divide halts (s.readWord y.toNat) s := by
  obtain hdvh | hdvp := h
  · exact ⟨true, (withValidAddress_next ((exec_dvh y s).symm.trans hdvh)).2⟩
  · exact ⟨false, (withValidAddress_next ((exec_dvp y s).symm.trans hdvp)).2⟩

/-! ### The obligations -/

/-- Settles O44: the two halves of the product fit, and together they are the product again. -/
theorem mpySplitsProduct : Obligations.MpySplitsProduct :=
  completesWithAddress (fun _ => rfl) exec_mpy fun _ s =>
    ⟨multiply_ac_toNat _ s, multiply_mq_toNat _ s, dividend_multiply _ s, multiply_frame _ s⟩

/-- Settles O45: the high half of a product has room for the increment below Q. -/
theorem mprRoundsProduct : Obligations.MprRoundsProduct := by
  refine ⟨completesWithAddress (fun _ => rfl) exec_mpr fun y s => ?_, fun y s t hmpy => ?_⟩
  · have hfits : product (s.readWord y.toNat) s.mq / 2 ^ 35 +
        (if (product (s.readWord y.toNat) s.mq).testBit 34 then 1 else 0) < 2 ^ 35 := by
      have hroom := product_div_succ_lt (s.readWord y.toNat) s.mq
      split <;> omega
    rw [rndAc_multiply]
    exact ⟨packAc_ofNat_toNat _ hfits, packAc_getLsbD _ _ _ _ 36, packAc_getLsbD _ _ _ _ 35,
      multiply_mq_toNat _ s, s.frame_setAc_setMq _ _⟩
  · obtain ⟨hy, rfl⟩ := withValidAddress_next ((exec_mpy y s).symm.trans hmpy)
    rw [exec_mpr, withValidAddress_of_lt hy, exec_rnd]

/-- Settles O46: on divide overflow two flags, and otherwise a quotient and a remainder that fit. -/
theorem dvhDividesOrHalts : Obligations.DvhDividesOrHalts :=
  completesWithAddress (fun _ => rfl) exec_dvh fun _ _ =>
    ⟨fun hle => ⟨by simp [readFlag_divide_of_overflow hle], by simp [readFlag_divide_of_overflow hle],
      divide_frame_of_overflow hle true⟩,
    fun hlt => ⟨divide_mq_toNat hlt true, divide_ac_toNat hlt true, divide_frame_of_lt hlt true⟩⟩

/-- Settles O47: on divide overflow the one flag, and otherwise a quotient and a remainder that fit. -/
theorem dvpDividesOrProceeds : Obligations.DvpDividesOrProceeds :=
  completesWithAddress (fun _ => rfl) exec_dvp fun _ _ =>
    ⟨fun hle => ⟨by simp [readFlag_divide_of_overflow hle], divide_frame_of_overflow hle false⟩,
    fun hlt => ⟨divide_mq_toNat hlt false, divide_ac_toNat hlt false, divide_frame_of_lt hlt false⟩⟩

/-- Settles O48: the magnitudes of MQ and AC are the quotient and the remainder of the dividend. -/
theorem divideIdentity : Obligations.DivideIdentity := by
  intro y s t hexec hlt
  obtain ⟨halts, rfl⟩ := exec_divide_next hexec
  rw [divide_mq_mag hlt, divide_ac_mag hlt]
  exact ⟨Nat.div_add_mod' _ _, dividend_mod_lt hlt⟩

/-- Settles O49: MQ.M times the divisor is a dividend whose high half lies below the divisor, and the divide takes the
factor away again. -/
theorem divideAfterMultiplyRestores : Obligations.DivideAfterMultiplyRestores := by
  intro y s t u hne hmpy hdivide
  obtain ⟨-, rfl⟩ := withValidAddress_next ((exec_mpy y s).symm.trans hmpy)
  have hword : (multiply (s.readWord y.toNat) s).readWord y.toNat = s.readWord y.toNat := rfl
  obtain ⟨halts, rfl⟩ := exec_divide_next hdivide
  rw [hword]
  have hpos := Nat.pos_of_ne_zero hne
  have hlt : (multiply (s.readWord y.toNat) s).ac.toNat % 2 ^ 35 < (s.readWord y.toNat).toNat % 2 ^ 35 := by
    rw [multiply_ac_mag, Nat.div_lt_iff_lt_mul (by decide), product]
    exact Nat.mul_lt_mul_of_pos_left (Nat.mod_lt _ (by decide)) hpos
  rw [divide_mq_mag hlt, divide_ac_mag hlt, dividend_multiply, product]
  exact ⟨Nat.mul_div_cancel_left _ hpos, Nat.mul_mod_right _ _,
    fun f => (divide_frame_of_lt hlt halts).flagBank f List.not_mem_nil⟩

end Sys2Proof.Machine
end

section
/-!
The host port between commands and the bulk clears (46_bulk_and_host R220 to R229). A host access is settled by the one
update that the step makes with the action off the list; a register clear by what each register reads after it, zero
where it is named and otherwise what it was.
-/

namespace Sys2Proof.Machine

/-! ### What the updates leave unchanged -/

theorem State.frame_writeFlag (s : State) (f : Flag) (b : Bool) :
    Frame [] [f] noWord s (s.setFlags (s.flags.write f b)) where
  registers r _ := by cases r <;> rfl
  flagBank _ hg := FlagBank.read_write_other s.flags b (List.ne_of_not_mem_cons hg)
  memory _ _ := rfl
  coreSize := rfl
  verbose := rfl
  inputs := rfl

theorem State.frame_setCore (s : State) (m : Memory) : Frame [] [] (fun _ => True) s (s.setCore m) where
  registers r _ := by cases r <;> rfl
  flagBank _ _ := rfl
  memory _ ha := absurd trivial ha
  coreSize := rfl
  verbose := rfl
  inputs := rfl

/-! ### The register clears -/

/-- CLEAR_ARITH register by register (R222). -/
theorem readRegister_clearArithRegisters (s : State) (r : Register) :
    (clearArithRegisters s).readRegister r = if r ∈ [.ac, .mq, .sr] then 0 else s.readRegister r := by
  cases r <;> rfl

/-- CLEAR_PROG register by register (R223). -/
theorem readRegister_clearProgRegisters (s : State) (r : Register) :
    (clearProgRegisters s).readRegister r =
      if r ∈ [.ilc, .ir, .sr, .xr1, .xr2, .xr3] then 0 else s.readRegister r := by
  cases r <;> rfl

theorem frame_clearArithRegisters (s : State) : Frame [.ac, .mq, .sr] [] noWord s (clearArithRegisters s) where
  registers r hr := (readRegister_clearArithRegisters s r).trans (if_neg hr)
  flagBank _ _ := rfl
  memory _ _ := rfl
  coreSize := rfl
  verbose := rfl
  inputs := rfl

theorem frame_clearProgRegisters (s : State) :
    Frame [.ilc, .ir, .sr, .xr1, .xr2, .xr3] [] noWord s (clearProgRegisters s) where
  registers r hr := (readRegister_clearProgRegisters s r).trans (if_neg hr)
  flagBank _ _ := rfl
  memory _ _ := rfl
  coreSize := rfl
  verbose := rfl
  inputs := rfl

/-- The two clears together reach all eight registers (10_state R20), which is what CLEAR_ALL says (R224). -/
theorem mem_clearArith_or_mem_clearProg (r : Register) :
    r ∈ [.ac, .mq, .sr] ∨ r ∈ [.ilc, .ir, .sr, .xr1, .xr2, .xr3] := by
  cases r <;> decide

theorem readRegister_clearAll (s : State) (r : Register) :
    (clearProgRegisters (clearArithRegisters s)).readRegister r = 0 := by
  rw [readRegister_clearProgRegisters, readRegister_clearArithRegisters]
  rcases mem_clearArith_or_mem_clearProg r with harith | hprog
  · rw [if_pos harith, ite_self]
  · rw [if_pos hprog]

/-- What two updates in a row leave unchanged: what neither of them names. -/
theorem Frame.trans {regs regs' all : List Register} {flags : List Flag} {stored : Nat → Prop} {s t u : State}
    (hst : Frame regs flags stored s t) (htu : Frame regs' flags stored t u) (hregs : regs ⊆ all)
    (hregs' : regs' ⊆ all) : Frame all flags stored s u where
  registers r hr := (htu.registers r fun h => hr (hregs' h)).trans (hst.registers r fun h => hr (hregs h))
  flagBank f hf := (htu.flagBank f hf).trans (hst.flagBank f hf)
  memory a ha := (htu.memory a ha).trans (hst.memory a ha)
  coreSize := htu.coreSize.trans hst.coreSize
  verbose := htu.verbose.trans hst.verbose
  inputs := htu.inputs.trans hst.inputs

theorem frame_clearAll (s : State) :
    Frame [.ac, .mq, .sr, .xr1, .xr2, .xr3, .ilc, .ir] [] noWord s (clearProgRegisters (clearArithRegisters s)) :=
  (frame_clearArithRegisters s).trans (frame_clearProgRegisters _) (by decide) (by decide)

theorem readRegister_reset (r : Register) : State.reset.readRegister r = 0 := by
  obtain ⟨hzero, -⟩ := constructionClearsRegistersAndFlags Config.defaultCoreSize false
  exact BitVec.eq_of_toNat_eq ((hzero r).trans BitVec.toNat_zero.symm)

/-! ### The obligations -/

/-- Settles O16: the step is one register write, with the action off the list. -/
theorem callerWritesRegister : Obligations.CallerWritesRegister := fun s r v rest hin =>
  ⟨(s.setInputs rest).writeRegister r v, step_of_host hin, State.readRegister_writeRegister_same _ r v,
    (s.setInputs rest).frame_writeRegister r v⟩

/-- Settles O17: the step is one flag write, with the action off the list. -/
theorem callerWritesFlag : Obligations.CallerWritesFlag := fun s f b rest hin =>
  ⟨(s.setInputs rest).setFlags (s.flags.write f b), step_of_host hin, FlagBank.read_write_same s.flags f b,
    (s.setInputs rest).frame_writeFlag f b⟩

/-- Settles O18: behind the check of its address the step is one store, with the action off the list. -/
theorem callerWritesCore : Obligations.CallerWritesCore := by
  intro s a v rest hin
  rw [step_of_host hin]
  refine ⟨fun hlt => ?_, fun hle => hostAccess_writeCore_of_le (s := s.setInputs rest) hle v⟩
  exact ⟨(s.setInputs rest).writeWord a.toNat v, hostAccess_writeCore_of_lt (s := s.setInputs rest) hlt v,
    State.readWord_writeWord_same _ _ v, (s.setInputs rest).frame_writeWord a v⟩

/-- Settles O19: only the read of a core word is checked, and a read that passes answers the state it was made in. -/
theorem callerReadsChangeNothing : Obligations.CallerReadsChangeNothing := by
  intro s rest
  refine ⟨fun r hin => step_of_host hin, fun f hin => step_of_host hin, fun a hin => ?_⟩
  rw [step_of_host hin]
  exact ⟨fun hlt => hostAccess_readCore_of_lt hlt, fun hle => hostAccess_readCore_of_le hle⟩

/-- Settles O50: core memory is replaced by `CORE_SIZE` zeros. -/
theorem clearCoreZeroesEveryWord : Obligations.ClearCoreZeroesEveryWord :=
  completesWithoutAddress (fun _ => rfl) exec_clearCore fun s =>
    ⟨fun _ ha => Memory.read_zeros ha, s.frame_setCore _⟩

/-- Settles O51: the three named registers read zero, and the frame covers the rest. -/
theorem clearArithZeroesAcMqSr : Obligations.ClearArithZeroesAcMqSr :=
  completesWithoutAddress (fun _ => rfl) exec_clearArith fun s =>
    ⟨clearArithRegisters_ac s, clearArithRegisters_mq s, clearArithRegisters_sr s, frame_clearArithRegisters s⟩

/-- Settles O52: the six named registers read zero, and the frame covers the rest. -/
theorem clearProgZeroesProgramRegisters : Obligations.ClearProgZeroesProgramRegisters :=
  completesWithoutAddress (fun _ => rfl) exec_clearProg fun s =>
    ⟨clearProgRegisters_ilc s, clearProgRegisters_ir s, clearProgRegisters_sr s, clearProgRegisters_xr1 s,
      clearProgRegisters_xr2 s, clearProgRegisters_xr3 s, frame_clearProgRegisters s⟩

/-- Settles O53: every register reads zero after the two clears, as it does after reset. -/
theorem clearAllZeroesRegisterFile : Obligations.ClearAllZeroesRegisterFile :=
  completesWithoutAddress (fun _ => rfl) exec_clearAll fun s =>
    ⟨fun r => (readRegister_clearAll s r).trans (readRegister_reset r).symm,
      fun r => by rw [readRegister_clearAll, BitVec.ofNat_eq_ofNat, BitVec.toNat_zero], frame_clearAll s⟩

end Sys2Proof.Machine
end

section
/-!
The contract violations and their status codes (60_exceptions R245 to R248), and `rst` (70_reset_and_hazards R280,
R281). The three codes name the three answers apart once the model never refuses: commands and host accesses alike are
one address check before a completion, and that check can only complete or raise `AddressOutOfRange`.
-/

namespace Sys2Proof.Machine

/-! ### No step refuses -/

theorem addressChecked_ne_refused (who : Requester) (a? : Option Addr) (s t : State) (r : Refusal) :
    addressChecked who a? s t ≠ .refused r := by
  cases a? with
  | none => exact nofun
  | some y =>
    rcases Nat.lt_or_ge y.toNat s.coreSize with hlt | hle
    · rw [addressChecked, withValidAddress_of_lt hlt]
      exact nofun
    · rw [addressChecked_of_le hle]
      exact nofun

theorem exec_ne_refused (i : Instr) (s : State) (r : Refusal) : exec i s ≠ .refused r := by
  obtain ⟨t, ht, -⟩ := exec_eq_addressChecked i s
  rw [ht]
  exact addressChecked_ne_refused _ _ s t r

theorem hostAccess_ne_refused (h : HostAccess) (s : State) (r : Refusal) : hostAccess h s ≠ .refused r := by
  obtain ⟨t, ht, -⟩ := hostAccess_eq_addressChecked h s
  rw [ht]
  exact addressChecked_ne_refused _ _ s t r

theorem runCommand_ne_refused (w : Command) (s : State) (r : Refusal) : runCommand w s ≠ .refused r := by
  cases hd : decode w with
  | ok i =>
    rw [runCommand_of_ok hd]
    exact exec_ne_refused i s r
  | error e =>
    rw [runCommand_of_error hd]
    exact nofun

theorem step_ne_refused (s : State) (r : Refusal) : step s ≠ .refused r := by
  rcases step_cases s with ⟨-, hs⟩ | ⟨w, rest, -, hs⟩ | ⟨h, rest, -, hs⟩ <;> rw [hs]
  · exact nofun
  · exact runCommand_ne_refused w _ r
  · exact hostAccess_ne_refused h _ r

/-! ### Each status code names one kind of answer (R245) -/

theorem exists_statusOf {a : Result} (h : ∀ r, a ≠ .refused r) : ∃ c, statusOf a = some c := by
  cases a with
  | next t => exact ⟨_, rfl⟩
  | fault f => exact ⟨_, rfl⟩
  | refused r => exact absurd rfl (h r)

theorem statusOf_eq_zero_iff {a : Result} : statusOf a = some 0#2 ↔ ∃ t, a = .next t := by
  rcases a with t | (⟨who, y⟩ | w) | r <;> simp

theorem statusOf_eq_one_iff {a : Result} :
    statusOf a = some 1#2 ↔ ∃ who y, a = .fault (.addressOutOfRange who y) := by
  rcases a with t | (⟨who, y⟩ | w) | r <;> simp

theorem statusOf_eq_two_iff {a : Result} : statusOf a = some 2#2 ↔ ∃ w, a = .fault (.unsupportedOpcode w) := by
  rcases a with t | (⟨who, y⟩ | w) | r <;> simp

theorem statusOf_ne_three (a : Result) : statusOf a ≠ some 3#2 := by
  rcases a with t | (⟨who, y⟩ | w) | r <;> simp

/-! ### `rst` (R280) -/

@[simp] theorem State.readRegister_hostReset (s : State) (r : Register) : s.hostReset.readRegister r = 0 := by
  cases r <;> rfl

@[simp] theorem State.readFlag_hostReset (s : State) (f : Flag) : s.hostReset.readFlag f = false :=
  FlagBank.cleared_read f

/-! ### The obligations -/

/-- Settles O15: no step refuses, so each has a status, and a status stands for one kind of answer. -/
theorem statusIsZeroOneOrTwo : Obligations.StatusIsZeroOneOrTwo := by
  intro s
  obtain ⟨c, hc⟩ := exists_statusOf (step_ne_refused s)
  simp only [← statusOf_eq_zero_iff, ← statusOf_eq_one_iff, ← statusOf_eq_two_iff, hc, Option.some_inj]
  exact ⟨c, rfl, fun hthree => statusOf_ne_three _ (hc.trans (congrArg some hthree)), .rfl, .rfl, .rfl⟩

/-- Settles O12: the word does not decode, and a word that does not decode raises the violation. -/
theorem unsupportedTagIsViolation : Obligations.UnsupportedTagIsViolation := by
  intro s w rest hin htag
  rw [← tagField_toNat] at htag
  rw [step_of_command hin, runCommand_of_error (decode_of_tag_le htag)]

/-- Settles O20: the step is one `hostReset`, with the action off the list. -/
theorem hostResetKeepsCore : Obligations.HostResetKeepsCore := by
  intro s rest hin
  refine ⟨(s.setInputs rest).hostReset, step_of_host hin, fun r => ?_, State.readFlag_hostReset _, fun _ => rfl,
    rfl, rfl, rfl⟩
  rw [State.readRegister_hostReset, BitVec.ofNat_eq_ofNat, BitVec.toNat_zero]

end Sys2Proof.Machine
end
